-- ==== Sys2Proof/Word.lean ====
section
/-! DEFINITION. The word types of the machine (00_scope.md R7, R8; 10_state.md R20, R26).
Every value is an unsigned bit vector of the width the spec states. -/

namespace Sys2Proof

/-- A register, accumulator or data nibble: `WORD` = 4 bits (00_scope.md R7). -/
abbrev Nibble := BitVec 4

/-- A program-memory word: `INSTR_WORD` = 8 bits (00_scope.md R7). -/
abbrev Byte := BitVec 8

/-- A program address: `PC_WIDTH` = 12 bits (00_scope.md R7). -/
abbrev Addr := BitVec 12

/-- The index of a general register, 0 to 15 (10_state.md R20). -/
abbrev Reg := Fin 16

/-- The number of a register pair, 0 to 7 (10_state.md R21). -/
abbrev Pair := Fin 8

end Sys2Proof
end

