-- ==== Sys2Proof/Machine/Flags.lean ====
section
/-! DEFINITION. The arithmetic of the ALU with its carry: every computation exact on natural numbers,
narrowed at the end (42_alu.md R160, R161, R167 to R170, R174, R177 to R179). CY is true for 1. -/

namespace Sys2Proof.Machine

/-- The result and carry of an exact sum: `t mod 16` and `t > 15`. -/
def narrow (t : Nat) : Nibble × Bool := (BitVec.ofNat 4 t, decide (15 < t))

/-- The addition law (42_alu.md R160). -/
def addLaw (a b : Nibble) (c : Bool) : Nibble × Bool := narrow (a.toNat + b.toNat + c.toNat)

/-- The subtraction law: carry out 0 signals a borrow, carry in 1 subtracts one more (42_alu.md R161). -/
def subLaw (a b : Nibble) (c : Bool) : Nibble × Bool :=
  narrow (a.toNat + (15 - b.toNat) + (1 - c.toNat))

/-- `v + 1 mod 16` (42_alu.md R166). -/
def incrementLaw (v : Nibble) : Nibble := BitVec.ofNat 4 (v.toNat + 1)

/-- DAC: `A + 15` with its carry (42_alu.md R168). -/
def decrementLaw (a : Nibble) : Nibble × Bool := narrow (a.toNat + 15)

/-- RAL: `CY <- A[3]`, `A <- {A[2:0], c}` (42_alu.md R169). -/
def rotateLeft (a : Nibble) (c : Bool) : Nibble × Bool :=
  (a.extractLsb' 0 3 ++ BitVec.ofBool c, a.getLsbD 3)

/-- RAR: `CY <- A[0]`, `A <- {c, A[3:1]}` (42_alu.md R170). -/
def rotateRight (a : Nibble) (c : Bool) : Nibble × Bool :=
  (BitVec.ofBool c ++ a.extractLsb' 1 3, a.getLsbD 0)

/-- CMA: `15 - A` (42_alu.md R174). -/
def complementLaw (a : Nibble) : Nibble := BitVec.ofNat 4 (15 - a.toNat)

/-- TCC: the carry zero-extended to 4 bits (42_alu.md R176). -/
def carryNibble (c : Bool) : Nibble := if c then 1 else 0

/-- TCS: 10 where CY is 1, else 9 (42_alu.md R177). -/
def carrySubtractNibble (c : Bool) : Nibble := if c then 10 else 9

/-- DAA: add 6 where A > 9 or CY = 1; the carry is set when that sum carries out and kept otherwise
(42_alu.md R178). -/
def decimalAdjust (a : Nibble) (c : Bool) : Nibble × Bool :=
  if 9 < a.toNat ∨ c = true then
    (BitVec.ofNat 4 (a.toNat + 6), c || decide (15 < a.toNat + 6))
  else (a, c)

/-- KBP: one-hot to index, 15 for any other value (42_alu.md R179). -/
def keyboardLaw (a : Nibble) : Nibble :=
  match a.toNat with
  | 0 => 0
  | 1 => 1
  | 2 => 2
  | 4 => 3
  | 8 => 4
  | _ => 15

end Sys2Proof.Machine
end

