-- ==== Sys2Proof/Machine/Bits.lean ====
section
/-! DEFINITION. The bit fields of a word (00_scope.md R8; 30_encoding.md R80, R82, R83). -/

namespace Sys2Proof.Machine

/-- `v[7:4]`. -/
def highNibble (v : Byte) : Nibble := v.extractLsb' 4 4

/-- `v[3:0]`. -/
def lowNibble (v : Byte) : Nibble := v.extractLsb' 0 4

/-- The register field `r = w1[3:0]` (30_encoding.md R83). -/
def regField (w1 : Byte) : Reg := ⟨(w1.extractLsb' 0 4).toNat, (w1.extractLsb' 0 4).isLt⟩

/-- The pair field `p = w1[3:1]` (30_encoding.md R83). -/
def pairField (w1 : Byte) : Pair := ⟨(w1.extractLsb' 1 3).toNat, (w1.extractLsb' 1 3).isLt⟩

/-- A register number as the four bits of an encoding (30_encoding.md R83). -/
def regBits (r : Reg) : BitVec 4 := BitVec.ofNat 4 r.val

/-- A pair number as the three bits of an encoding (30_encoding.md R83). -/
def pairBits (p : Pair) : BitVec 3 := BitVec.ofNat 3 p.val

/-- Byte `n` of a number, byte 0 the least significant: the first word of a table row is byte 0. -/
def byteOf (w n : Nat) : Byte := BitVec.ofNat 8 (w / 256 ^ n)

end Sys2Proof.Machine
end

