-- ==== Sys2Proof/Syntax.lean ====
section
/-! DEFINITION. The instructions: one constructor for each row of spec/opcode_table.json, 47 named
instructions and four rows of unassigned words (30_encoding.md R85 to R90, R95). -/

namespace Sys2Proof

/-- One constructor per row of the opcode table, in the table's order. Register and pair numbers are
indices; immediates and addresses are the bit fields of 30_encoding.md R83. An unassigned row carries
its word (log entry 9). -/
inductive Instr where
  /-- No operation (43_data_transfer.md R200). -/
  | nop
  /-- Halt (44_control_flow.md R228). -/
  | hlt
  /-- Unassigned words 0x02 and 0x03 (40_execution.md R117). -/
  | unassigned02 (w : Byte)
  /-- Unassigned words 0x04 to 0x07 (40_execution.md R117). -/
  | unassigned04 (w : Byte)
  /-- Unassigned words 0x08 to 0x0F (40_execution.md R117). -/
  | unassigned08 (w : Byte)
  /-- Jump conditional (44_control_flow.md R223). -/
  | jcn (c : Nibble) (a8 : Byte)
  /-- Fetch immediate to register pair (43_data_transfer.md R204). -/
  | fim (p : Pair) (data8 : Byte)
  /-- Send register control: latch the address (41_memory_interface.md R131). -/
  | src (p : Pair)
  /-- Fetch indirect from program memory (41_memory_interface.md R147). -/
  | fin (p : Pair)
  /-- Jump indirect (44_control_flow.md R227). -/
  | jin (p : Pair)
  /-- Jump unconditional (44_control_flow.md R221). -/
  | jun (a12 : Addr)
  /-- Jump to subroutine (44_control_flow.md R225). -/
  | jms (a12 : Addr)
  /-- Increment register (42_alu.md R166). -/
  | inc (r : Reg)
  /-- Increment register, jump if not zero (44_control_flow.md R224). -/
  | isz (r : Reg) (a8 : Byte)
  /-- Add register with carry (42_alu.md R162). -/
  | add (r : Reg)
  /-- Subtract register with borrow (42_alu.md R163). -/
  | sub (r : Reg)
  /-- Load register (43_data_transfer.md R202). -/
  | ld (r : Reg)
  /-- Exchange accumulator and register (43_data_transfer.md R203). -/
  | xch (r : Reg)
  /-- Branch back and load: return (44_control_flow.md R226). -/
  | bbl (d : Nibble)
  /-- Load immediate (43_data_transfer.md R201). -/
  | ldm (d : Nibble)
  /-- Write data memory (41_memory_interface.md R133). -/
  | wrm
  /-- Write RAM output port (41_memory_interface.md R143). -/
  | wmp
  /-- Write ROM output port (41_memory_interface.md R144). -/
  | wrr
  /-- Write program memory, a no-op here (41_memory_interface.md R146). -/
  | wpm
  /-- Write status nibble 0 (41_memory_interface.md R135). -/
  | wr0
  /-- Write status nibble 1 (41_memory_interface.md R136). -/
  | wr1
  /-- Write status nibble 2 (41_memory_interface.md R137). -/
  | wr2
  /-- Write status nibble 3 (41_memory_interface.md R138). -/
  | wr3
  /-- Subtract data-memory nibble with borrow (42_alu.md R165). -/
  | sbm
  /-- Read data memory (41_memory_interface.md R134). -/
  | rdm
  /-- Read ROM input port (41_memory_interface.md R145). -/
  | rdr
  /-- Add data-memory nibble with carry (42_alu.md R164). -/
  | adm
  /-- Read status nibble 0 (41_memory_interface.md R139). -/
  | rd0
  /-- Read status nibble 1 (41_memory_interface.md R140). -/
  | rd1
  /-- Read status nibble 2 (41_memory_interface.md R141). -/
  | rd2
  /-- Read status nibble 3 (41_memory_interface.md R142). -/
  | rd3
  /-- Clear accumulator and carry (42_alu.md R171). -/
  | clb
  /-- Clear carry (42_alu.md R172). -/
  | clc
  /-- Increment accumulator (42_alu.md R167). -/
  | iac
  /-- Complement carry (42_alu.md R173). -/
  | cmc
  /-- Complement accumulator (42_alu.md R174). -/
  | cma
  /-- Rotate left through carry (42_alu.md R169). -/
  | ral
  /-- Rotate right through carry (42_alu.md R170). -/
  | rar
  /-- Transfer carry to accumulator, clear carry (42_alu.md R176). -/
  | tcc
  /-- Decrement accumulator (42_alu.md R168). -/
  | dac
  /-- Transfer carry subtract (42_alu.md R177). -/
  | tcs
  /-- Set carry (42_alu.md R175). -/
  | stc
  /-- Decimal adjust accumulator (42_alu.md R178). -/
  | daa
  /-- Keyboard process: one-hot to index (42_alu.md R179). -/
  | kbp
  /-- Designate command line: select the bank (41_memory_interface.md R132). -/
  | dcl
  /-- Unassigned words 0xFE and 0xFF (40_execution.md R117). -/
  | unassignedFE (w : Byte)
  deriving DecidableEq, Repr

end Sys2Proof
end

