-- ==== Sys2Proof/WellFormed.lean ====
section
/-! DEFINITION. Which terms of `Instr` stand for words of the opcode map. Every operand field is held
at its encoded width, so every value of a field is encodable; the one check is that an unassigned row
carries a word of its own range (30_encoding.md R90). -/

namespace Sys2Proof

/-- The instruction has an encoding (30_encoding.md R85 to R90). -/
def Instr.wellFormed : Instr → Bool
  | .unassigned02 w => decide (0x02 ≤ w.toNat ∧ w.toNat ≤ 0x03)
  | .unassigned04 w => decide (0x04 ≤ w.toNat ∧ w.toNat ≤ 0x07)
  | .unassigned08 w => decide (0x08 ≤ w.toNat ∧ w.toNat ≤ 0x0F)
  | .unassignedFE w => decide (0xFE ≤ w.toNat ∧ w.toNat ≤ 0xFF)
  | .nop | .hlt | .jcn _ _ | .fim _ _ | .src _ | .fin _ | .jin _ | .jun _ | .jms _ | .inc _
  | .isz _ _ | .add _ | .sub _ | .ld _ | .xch _ | .bbl _ | .ldm _ | .wrm | .wmp | .wrr | .wpm
  | .wr0 | .wr1 | .wr2 | .wr3 | .sbm | .rdm | .rdr | .adm | .rd0 | .rd1 | .rd2 | .rd3 | .clb | .clc
  | .iac | .cmc | .cma | .ral | .rar | .tcc | .dac | .tcs | .stc | .daa | .kbp | .dcl => true

end Sys2Proof
end

