-- ==== Sys2Proof/Decode.lean ====
section
/-! DEFINITION. The decoder and the encoder, both written from the opcode map of 30_encoding.md.
Decoding is two-level (R85, 40_execution.md R113): on OPR = w1[7:4], then in families 0x0, 0x2, 0x3,
0xE and 0xF on OPA = w1[3:0]. Every first word decodes (R91); a byte list is refused, by name, only
when it ends before the instruction does. -/

namespace Sys2Proof

open Sys2Proof.Machine (highNibble lowNibble regField pairField regBits pairBits byteOf)

/-- The length function of 30_encoding.md R92. -/
def wordCount (w1 : Byte) : Nat :=
  match (highNibble w1).toNat with
  | 0x1 | 0x4 | 0x5 | 0x7 => 2
  | 0x2 => if w1.getLsbD 0 then 1 else 2
  | _ => 1

/-- Second-level decode of family 0x0 (30_encoding.md R86, R90). -/
def decodeMisc (w1 : Byte) : Instr :=
  match (lowNibble w1).toNat with
  | 0x0 => .nop
  | 0x1 => .hlt
  | 0x2 | 0x3 => .unassigned02 w1
  | 0x4 | 0x5 | 0x6 | 0x7 => .unassigned04 w1
  | _ => .unassigned08 w1

/-- Second-level decode of family 0xE (30_encoding.md R88). -/
def decodeMemory (w1 : Byte) : Instr :=
  match (lowNibble w1).toNat with
  | 0x0 => .wrm
  | 0x1 => .wmp
  | 0x2 => .wrr
  | 0x3 => .wpm
  | 0x4 => .wr0
  | 0x5 => .wr1
  | 0x6 => .wr2
  | 0x7 => .wr3
  | 0x8 => .sbm
  | 0x9 => .rdm
  | 0xA => .rdr
  | 0xB => .adm
  | 0xC => .rd0
  | 0xD => .rd1
  | 0xE => .rd2
  | _ => .rd3

/-- Second-level decode of family 0xF (30_encoding.md R89, R90). -/
def decodeAccumulator (w1 : Byte) : Instr :=
  match (lowNibble w1).toNat with
  | 0x0 => .clb
  | 0x1 => .clc
  | 0x2 => .iac
  | 0x3 => .cmc
  | 0x4 => .cma
  | 0x5 => .ral
  | 0x6 => .rar
  | 0x7 => .tcc
  | 0x8 => .dac
  | 0x9 => .tcs
  | 0xA => .stc
  | 0xB => .daa
  | 0xC => .kbp
  | 0xD => .dcl
  | _ => .unassignedFE w1

/-- The instruction of the words `w1` and, where the instruction has one, `w2` (30_encoding.md R85,
R87). The second word of a one-word instruction is not read. -/
def decodeWords (w1 w2 : Byte) : Instr :=
  match (highNibble w1).toNat with
  | 0x0 => decodeMisc w1
  | 0x1 => .jcn (lowNibble w1) w2
  | 0x2 => if w1.getLsbD 0 then .src (pairField w1) else .fim (pairField w1) w2
  | 0x3 => if w1.getLsbD 0 then .jin (pairField w1) else .fin (pairField w1)
  | 0x4 => .jun (lowNibble w1 ++ w2)
  | 0x5 => .jms (lowNibble w1 ++ w2)
  | 0x6 => .inc (regField w1)
  | 0x7 => .isz (regField w1) w2
  | 0x8 => .add (regField w1)
  | 0x9 => .sub (regField w1)
  | 0xA => .ld (regField w1)
  | 0xB => .xch (regField w1)
  | 0xC => .bbl (lowNibble w1)
  | 0xD => .ldm (lowNibble w1)
  | 0xE => decodeMemory w1
  | _ => decodeAccumulator w1

/-- Why a byte list is no instruction. Raised by `decode` alone; the machine's own fetch always has
both words (10_state.md R27), so no step meets it. Safe. -/
inductive DecodeRefusal where
  /-- The list is empty. -/
  | noFirstWord
  /-- The list ends after the first word of a two-word instruction (30_encoding.md R81). -/
  | noSecondWord (w1 : Byte)
  deriving DecidableEq, Repr

/-- The first instruction of a byte list and the bytes after it. -/
def decode : List Byte → Except DecodeRefusal (Instr × List Byte)
  | [] => .error .noFirstWord
  | w1 :: rest =>
    if wordCount w1 = 2 then
      match rest with
      | [] => .error (.noSecondWord w1)
      | w2 :: rest' => .ok (decodeWords w1 w2, rest')
    else .ok (decodeWords w1 0#8, rest)

/-- The number of words of an instruction (30_encoding.md R81). -/
def Instr.words : Instr → Nat
  | .jcn _ _ | .fim _ _ | .jun _ | .jms _ | .isz _ _ => 2
  | .nop | .hlt | .unassigned02 _ | .unassigned04 _ | .unassigned08 _ | .src _ | .fin _ | .jin _
  | .inc _ | .add _ | .sub _ | .ld _ | .xch _ | .bbl _ | .ldm _ | .wrm | .wmp | .wrr | .wpm | .wr0
  | .wr1 | .wr2 | .wr3 | .sbm | .rdm | .rdr | .adm | .rd0 | .rd1 | .rd2 | .rd3 | .clb | .clc | .iac
  | .cmc | .cma | .ral | .rar | .tcc | .dac | .tcs | .stc | .daa | .kbp | .dcl
  | .unassignedFE _ => 1

/-- The words of an instruction, the first word first, each built from its bit pattern in
30_encoding.md R82, R86 to R89. -/
def encode : Instr → List Byte
  | .nop => [0x00#8]
  | .hlt => [0x01#8]
  | .unassigned02 w => [w]
  | .unassigned04 w => [w]
  | .unassigned08 w => [w]
  | .jcn c a8 => [0x1#4 ++ c, a8]
  | .fim p data8 => [0x2#4 ++ pairBits p ++ 0#1, data8]
  | .src p => [0x2#4 ++ pairBits p ++ 1#1]
  | .fin p => [0x3#4 ++ pairBits p ++ 0#1]
  | .jin p => [0x3#4 ++ pairBits p ++ 1#1]
  | .jun a12 => [0x4#4 ++ a12.extractLsb' 8 4, a12.extractLsb' 0 8]
  | .jms a12 => [0x5#4 ++ a12.extractLsb' 8 4, a12.extractLsb' 0 8]
  | .inc r => [0x6#4 ++ regBits r]
  | .isz r a8 => [0x7#4 ++ regBits r, a8]
  | .add r => [0x8#4 ++ regBits r]
  | .sub r => [0x9#4 ++ regBits r]
  | .ld r => [0xA#4 ++ regBits r]
  | .xch r => [0xB#4 ++ regBits r]
  | .bbl d => [0xC#4 ++ d]
  | .ldm d => [0xD#4 ++ d]
  | .wrm => [0xE0#8]
  | .wmp => [0xE1#8]
  | .wrr => [0xE2#8]
  | .wpm => [0xE3#8]
  | .wr0 => [0xE4#8]
  | .wr1 => [0xE5#8]
  | .wr2 => [0xE6#8]
  | .wr3 => [0xE7#8]
  | .sbm => [0xE8#8]
  | .rdm => [0xE9#8]
  | .rdr => [0xEA#8]
  | .adm => [0xEB#8]
  | .rd0 => [0xEC#8]
  | .rd1 => [0xED#8]
  | .rd2 => [0xEE#8]
  | .rd3 => [0xEF#8]
  | .clb => [0xF0#8]
  | .clc => [0xF1#8]
  | .iac => [0xF2#8]
  | .cmc => [0xF3#8]
  | .cma => [0xF4#8]
  | .ral => [0xF5#8]
  | .rar => [0xF6#8]
  | .tcc => [0xF7#8]
  | .dac => [0xF8#8]
  | .tcs => [0xF9#8]
  | .stc => [0xFA#8]
  | .daa => [0xFB#8]
  | .kbp => [0xFC#8]
  | .dcl => [0xFD#8]
  | .unassignedFE w => [w]

/-- The instruction the decoder reads from a row of the opcode table whose bits are `w`, `nbits` of
them, bit 0 the least significant bit of the first word; bits from `nbits` up are zero. -/
def decodeTableWord (nbits w : Nat) : Option Instr :=
  match decode [byteOf (w % 2 ^ nbits) 0, byteOf (w % 2 ^ nbits) 1] with
  | .ok (i, _) => some i
  | .error _ => none

end Sys2Proof
end

