-- ==== Sys2Proof/Config.lean ====
section
/-! DEFINITION. The implementation parameters of 00_scope.md R7. Those the spec leaves OPEN are the
fields of `Config`, which a run carries unchanged (log entry 1); the others are fixed numbers. -/

namespace Sys2Proof

/-- The parameters a model takes as arguments (00_scope.md R7), constant for a run. -/
structure Config where
  /-- `ROM_INPUT`: the 4-bit value on each of the 16 ROM input ports (41_memory_interface.md R145). -/
  romInput : Vector Nibble 16
  /-- `TRAP_TARGET`: the reserved subroutine-call target, or none (60_exceptions.md R263). -/
  trapTarget : Option Addr
  /-- `TRAP_INTERCEPTOR`: whether the host has installed an interceptor (60_exceptions.md R263). -/
  trapInterceptor : Bool
  deriving DecidableEq, Repr

/-- The defaults of 00_scope.md R7: ROM_INPUT constantly 0 and no interceptor. The spec gives no trap
target; none is a DESIGN CHOICE (log entry 2) that nothing reads while no interceptor is installed. -/
def Config.default : Config where
  romInput := Vector.replicate 16 0
  trapTarget := none
  trapInterceptor := false

/-- `PROG_SIZE`: the number of program-memory words (00_scope.md R7). -/
def progSize : Nat := 4096

/-- The number of data-memory byte cells, two nibbles each (20_memory.md R50). -/
def dataCells : Nat := 1024

/-- The number of status nibbles (20_memory.md R50). -/
def statusNibbles : Nat := 512

end Sys2Proof
end

