-- ==== Sys2Proof/Machine/State.lean ====
section
/-! DEFINITION. The state of the machine (10_state.md, 20_memory.md), the reasons a step stops, and
the state after reset. -/

namespace Sys2Proof.Machine

/-- A memory of `w`-bit cells as (address, value) pairs in one canonical form: addresses strictly
rising, no value 0. An unlisted address reads 0, the reset value of every cell (10_state.md R40), so
`Memory 8` is a list of `Host.Cell`. -/
abbrev Memory (w : Nat) := List (Nat × BitVec w)

/-- The run state (10_state.md R32). DISPATCH exists only inside a step, so no state between steps
holds it (log entry 5). -/
inductive RunState where
  | fetch
  | dispatch
  | halted
  deriving DecidableEq, Repr

/-- The halt reason (10_state.md R33). -/
inductive HaltReason where
  | running
  | haltInstruction
  | stackOverflow
  | stackUnderflow
  deriving DecidableEq, Repr

/-- Everything the spec gives the machine, and the run's configuration. -/
structure State where
  /-- General registers `x[0..15]` (10_state.md R20). -/
  x : Vector Nibble 16
  /-- The accumulator `A` (10_state.md R23). -/
  acc : Nibble
  /-- The carry flag `CY`, true for 1 (10_state.md R24). -/
  cy : Bool
  /-- The program counter (10_state.md R26). -/
  pc : Addr
  /-- The return addresses `stack[0..2]` (10_state.md R28). -/
  stack : Vector Addr 3
  /-- The stack depth, 0 to 3 (10_state.md R28). -/
  depth : Fin 4
  /-- The address latch, `sel` in bits [7:4] and `off` in bits [3:0] (10_state.md R30). -/
  latch : Byte
  /-- The bank-select register (10_state.md R31). -/
  bank : BitVec 3
  /-- The run state (10_state.md R32). -/
  run : RunState
  /-- The halt reason (10_state.md R33). -/
  reason : HaltReason
  /-- Program memory `PM`, keyed by program address (20_memory.md R51, R52). -/
  pm : Memory 8
  /-- Data memory `DM`, keyed by byte cell, two nibbles a cell (20_memory.md R53, R54). -/
  dm : Memory 8
  /-- Status memory `SM`, one nibble a key (20_memory.md R55). -/
  sm : Memory 4
  /-- The latches `ram_port[bank][chip]` (10_state.md R34). -/
  ramPort : Vector (Vector Nibble 4) 8
  /-- The latches `rom_port[sel]` (10_state.md R34). -/
  romPort : Vector Nibble 16
  /-- The configuration parameters of the run, which no step writes (00_scope.md R7; log entry 1). -/
  cfg : Config
  deriving DecidableEq, Repr

/-- Why the machine stops without a next state. -/
inductive Fault where
  /-- The host event TRAP(a): a JMS at `a` whose target is TRAP_TARGET, with the interceptor installed,
  does not execute and leaves the state unchanged (60_exceptions.md R263). Raised by JMS alone. Safe:
  the spec says nothing of what follows (log entry 3). -/
  | trap (a : Addr)
  deriving DecidableEq, Repr

/-- Why a step has no meaning. -/
inductive Refusal where
  /-- An instruction without a meaning in this model. Raised by no arm of `exec`. Safe. -/
  | notModelled (mnemonic : String)
  /-- The block has no step while run is not FETCH (40_execution.md R111, 93_implementation_defined.md
  I16). Raised by `step` alone. Safe. -/
  | noStep (run : RunState)
  deriving DecidableEq, Repr

/-- The state right after reset: every element at the value of 10_state.md R40, the configuration at
the defaults of 00_scope.md R7, and no image loaded, so program memory reads 0x00 (log entry 4). -/
def State.reset : State where
  x := Vector.replicate 16 0
  acc := 0
  cy := false
  pc := 0
  stack := Vector.replicate 3 0
  depth := 0
  latch := 0
  bank := 0
  run := .fetch
  reason := .running
  pm := []
  dm := []
  sm := []
  ramPort := Vector.replicate 8 (Vector.replicate 4 0)
  romPort := Vector.replicate 16 0
  cfg := Config.default

end Sys2Proof.Machine
end

