-- ==== Sys2Proof/Machine/Ops.lean ====
section
/-! DEFINITION. The named operations over memory, registers, the stack and the run state
(00_scope.md R9), the fetch (40_execution.md R112, R114) and the entry to HALTED (60_exceptions.md R252,
R259), which is this machine's only exception entry; there is no return from it (R260). -/

namespace Sys2Proof.Machine

/-! ### One memory -/

/-- The cell at `a`: the list is searched in rising order, and an unlisted address reads 0. -/
def Memory.read {w : Nat} : Memory w → Nat → BitVec w
  | [], _ => 0#w
  | (k, v) :: m, a => if a < k then 0#w else if a = k then v else Memory.read m a

/-- The entries above `a`: all of them, where a canonical memory's last entry was at `a`. -/
def Memory.above {w : Nat} : Memory w → Nat → Memory w
  | [], _ => []
  | (k, v) :: m, a => if a < k then (k, v) :: m else Memory.above m a

/-- Writes the cell at `a` and keeps the canonical form: writing 0 removes the entry. -/
def Memory.write {w : Nat} : Memory w → Nat → BitVec w → Memory w
  | [], a, v => if v = 0#w then [] else [(a, v)]
  | (k, x) :: m, a, v =>
    if a < k then if v = 0#w then (k, x) :: m else (a, v) :: (k, x) :: m
    else if a = k then if v = 0#w then Memory.above m a else (a, v) :: m
    else (k, x) :: Memory.write m a v

/-- Addresses strictly rising from `lo`, all below `bound`, and no value 0. -/
def Memory.wfFrom {w : Nat} (bound : Nat) : Nat → Memory w → Bool
  | _, [] => true
  | lo, (k, v) :: m =>
    decide (lo ≤ k) && decide (k < bound) && decide (v ≠ 0#w) && Memory.wfFrom bound (k + 1) m

/-- The canonical form of a memory of `bound` cells. -/
def Memory.wf {w : Nat} (bound : Nat) (m : Memory w) : Bool := Memory.wfFrom bound 0 m

/-! ### General registers, accumulator and carry (10_state.md R20 to R25) -/

/-- `x[r]`. -/
def State.getReg (s : State) (r : Reg) : Nibble := s.x[r.val]

/-- `x[r] <- v`. -/
def State.setReg (s : State) (r : Reg) (v : Nibble) : State := { s with x := s.x.set r.val v }

/-- Register 2p, the high nibble of pair p (10_state.md R21). -/
def pairHigh (p : Pair) : Reg := ⟨2 * p.val, by omega⟩

/-- Register 2p+1, the low nibble of pair p (10_state.md R21). -/
def pairLow (p : Pair) : Reg := ⟨2 * p.val + 1, by omega⟩

/-- `pair(p) = {x[2p], x[2p+1]}` (00_scope.md R9). -/
def State.getPair (s : State) (p : Pair) : Byte := s.getReg (pairHigh p) ++ s.getReg (pairLow p)

/-- `pair(p) <- w`: `x[2p] <- w[7:4]` and `x[2p+1] <- w[3:0]` (00_scope.md R9). -/
def State.setPair (s : State) (p : Pair) (w : Byte) : State :=
  (s.setReg (pairHigh p) (highNibble w)).setReg (pairLow p) (lowNibble w)

/-- `A <- v`. -/
def State.setAcc (s : State) (v : Nibble) : State := { s with acc := v }

/-- `CY <- c`. -/
def State.setCy (s : State) (c : Bool) : State := { s with cy := c }

/-- `(A, CY) <- r`. -/
def State.setAccCy (s : State) (r : Nibble × Bool) : State := { s with acc := r.1, cy := r.2 }

/-! ### Program counter (10_state.md R26, R27) -/

/-- The next-sequential address of an `n`-word instruction at pc, modulo 4096 (30_encoding.md R92,
40_execution.md R114). -/
def State.nxt (s : State) (n : Nat) : Addr := s.pc + BitVec.ofNat 12 n

/-- `pc <- target`. -/
def State.jump (s : State) (target : Addr) : State := { s with pc := target }

/-- `pc <- nxt`, the advance of 40_execution.md R116. -/
def State.advance (s : State) (n : Nat) : State := s.jump (s.nxt n)

/-! ### Call stack (10_state.md R28, R29) -/

/-- Push, none where the stack is full. -/
def State.push (s : State) (v : Addr) : Option State :=
  if h : s.depth.val < 3 then
    some { s with stack := s.stack.set s.depth.val v, depth := ⟨s.depth.val + 1, by omega⟩ }
  else none

/-- Pop, none where the stack is empty: the popped value and the state with the new depth, the popped
entry left in place. -/
def State.pop (s : State) : Option (Addr × State) :=
  if h : 0 < s.depth.val then
    some (s.stack[s.depth.val - 1], { s with depth := ⟨s.depth.val - 1, by omega⟩ })
  else none

/-! ### Address latch and bank (10_state.md R30, R31) -/

/-- `sel = latch[7:4]`. -/
def State.sel (s : State) : Nibble := highNibble s.latch

/-- `off = latch[3:0]`. -/
def State.off (s : State) : Nibble := lowNibble s.latch

/-- `latch <- w`. -/
def State.setLatch (s : State) (w : Byte) : State := { s with latch := w }

/-- `bank <- b`. -/
def State.setBank (s : State) (b : BitVec 3) : State := { s with bank := b }

/-! ### The address spaces (20_memory.md R50) -/

/-- `MemRead(PM(a), 8)` (20_memory.md R52). -/
def State.readPM (s : State) (a : Addr) : Byte := s.pm.read a.toNat

/-- The key of the byte cell `cell(bank, sel, off div 2)` (20_memory.md R54). -/
def dataKey (bank : BitVec 3) (sel off : Nibble) : Nat :=
  bank.toNat * 128 + sel.toNat * 8 + off.toNat / 2

/-- The nibble of a byte cell at an offset: the high one where the offset is even (20_memory.md R54). -/
def cellNibble (cell : Byte) (off : Nibble) : Nibble :=
  if off.toNat % 2 = 0 then highNibble cell else lowNibble cell

/-- A byte cell with the nibble of one offset replaced and the other unchanged (20_memory.md R54). -/
def setCellNibble (cell : Byte) (off v : Nibble) : Byte :=
  if off.toNat % 2 = 0 then v ++ lowNibble cell else highNibble cell ++ v

/-- `MemRead(DM(bank, sel, off), 4)` (20_memory.md R54). -/
def State.readDM (s : State) (bank : BitVec 3) (sel off : Nibble) : Nibble :=
  cellNibble (s.dm.read (dataKey bank sel off)) off

/-- `MemWrite(DM(bank, sel, off), 4, v)` (20_memory.md R54). -/
def State.writeDM (s : State) (bank : BitVec 3) (sel off v : Nibble) : State :=
  let key := dataKey bank sel off
  { s with dm := s.dm.write key (setCellNibble (s.dm.read key) off v) }

/-- The key of the status nibble `SM(bank, sel, idx)` (20_memory.md R55). -/
def statusKey (bank : BitVec 3) (sel : Nibble) (idx : Fin 4) : Nat :=
  bank.toNat * 64 + sel.toNat * 4 + idx.val

/-- `MemRead(SM(bank, sel, idx), 4)` (20_memory.md R55). -/
def State.readSM (s : State) (bank : BitVec 3) (sel : Nibble) (idx : Fin 4) : Nibble :=
  s.sm.read (statusKey bank sel idx)

/-- `MemWrite(SM(bank, sel, idx), 4, v)` (20_memory.md R55). -/
def State.writeSM (s : State) (bank : BitVec 3) (sel : Nibble) (idx : Fin 4) (v : Nibble) : State :=
  { s with sm := s.sm.write (statusKey bank sel idx) v }

/-- The latch `ram_port[bank][chip]` (10_state.md R34). -/
def State.getRamPort (s : State) (bank : BitVec 3) (chip : BitVec 2) : Nibble :=
  (s.ramPort[bank.toNat]'bank.isLt)[chip.toNat]'chip.isLt

/-- `ram_port[bank][chip] <- v` (10_state.md R34). -/
def State.setRamPort (s : State) (bank : BitVec 3) (chip : BitVec 2) (v : Nibble) : State :=
  let chips := (s.ramPort[bank.toNat]'bank.isLt).set chip.toNat v chip.isLt
  { s with ramPort := s.ramPort.set bank.toNat chips bank.isLt }

/-- The latch `rom_port[sel]` (10_state.md R34). -/
def State.getRomPort (s : State) (sel : Nibble) : Nibble := s.romPort[sel.toNat]'sel.isLt

/-- `rom_port[sel] <- v` (10_state.md R34). -/
def State.setRomPort (s : State) (sel v : Nibble) : State :=
  { s with romPort := s.romPort.set sel.toNat v sel.isLt }

/-- `ROM_INPUT(sel)` (00_scope.md R7, 41_memory_interface.md R145). -/
def State.romInput (s : State) (sel : Nibble) : Nibble := s.cfg.romInput[sel.toNat]'sel.isLt

/-! ### Entry to HALTED, and the trap extension point -/

/-- Entry to HALTED: only `run` and `reason` change (60_exceptions.md R259). -/
def State.enterHalted (s : State) (r : HaltReason) : State := { s with run := .halted, reason := r }

/-- `raise Fatal(reason)` on the state an instruction found: no effect of the instruction, pc left at
it, and entry to HALTED (60_exceptions.md R252). -/
def State.raiseFatal (s : State) (r : HaltReason) : State := s.enterHalted r

/-- Whether a JMS to `a12` is handed to the host (60_exceptions.md R263). -/
def State.trapped (s : State) (a12 : Addr) : Bool :=
  s.cfg.trapInterceptor && decide (s.cfg.trapTarget = some a12)

/-! ### Fetch and the gate of a step -/

/-- The first word at pc (40_execution.md R112). -/
def State.fetchFirst (s : State) : Byte := s.readPM s.pc

/-- The word after pc, modulo 4096 (40_execution.md R114). -/
def State.fetchSecond (s : State) : Byte := s.readPM (s.nxt 1)

/-- The instruction at pc; the second word is used only where the first says there is one
(40_execution.md R113, R114). -/
def State.fetchInstr (s : State) : Instr :=
  if wordCount s.fetchFirst = 2 then decodeWords s.fetchFirst s.fetchSecond
  else decodeWords s.fetchFirst 0#8

/-- The block has a step only while run is FETCH (40_execution.md R111). -/
def State.stepRefusal (s : State) : Option Refusal :=
  match s.run with
  | .fetch => none
  | .dispatch => some (.noStep .dispatch)
  | .halted => some (.noStep .halted)

/-- Program memory with the bytes `b` placed from address `a` on, modulo 4096. -/
def placeBytes (pm : Memory 8) (a : Addr) : List Byte → Memory 8
  | [] => pm
  | b :: bs => placeBytes (pm.write a.toNat b) (a + 1) bs

/-- The state with two words placed where the next step fetches, and the run state a fetch needs. -/
def State.withWords (s : State) (w1 w2 : Byte) : State :=
  { s with pm := placeBytes s.pm s.pc [w1, w2], run := .fetch }

/-! ### How an instruction ends -/

/-- The instruction completes without writing pc, so pc advances by its words (40_execution.md R116). -/
def completes (n : Nat) (s : State) : Host.Outcome State Fault Refusal := .next (s.advance n)

/-- The instruction completes and writes pc itself (40_execution.md R116). -/
def transfers (target : Addr) (s : State) : Host.Outcome State Fault Refusal :=
  .next (s.jump target)

end Sys2Proof.Machine
end

