-- ==== Sys2Proof/Machine/Operands.lean ====
section
/-! DEFINITION. The operand forms that are computed: the page-relative and pair-relative targets
(44_control_flow.md R220), the JCN condition (R222), the current data address (41_memory_interface.md
R130) and the FIN table address (R147). -/

namespace Sys2Proof.Machine

/-- `page_target(a8) = {nxt[11:8], a8}` (44_control_flow.md R220). -/
def pageTarget (nxt : Addr) (a8 : Byte) : Addr := nxt.extractLsb' 8 4 ++ a8

/-- The JCN condition: the OR of the selected tests, inverted as a whole by `c[3]`; `c[0]` is not read
(44_control_flow.md R222). -/
def jumpCondition (c acc : Nibble) (cy : Bool) : Bool :=
  let t := (c.getLsbD 2 && decide (acc = 0#4)) || (c.getLsbD 1 && cy)
  if c.getLsbD 3 then !t else t

/-- The bank number DCL takes, `A[2:0]` (41_memory_interface.md R132). -/
def bankOf (acc : Nibble) : BitVec 3 := acc.extractLsb' 0 3

/-- The RAM port chip, `sel[3:2]` (41_memory_interface.md R143). -/
def chipOf (sel : Nibble) : BitVec 2 := sel.extractLsb' 2 2

/-- The nibble at the current data address (41_memory_interface.md R130). -/
def State.currentNibble (s : State) : Nibble := s.readDM s.bank s.sel s.off

/-- The address FIN reads: `{nxt[11:8], x[0], x[1]}` (41_memory_interface.md R147). -/
def State.tableAddr (s : State) : Addr := pageTarget (s.nxt 1) (s.getPair 0)

end Sys2Proof.Machine
end

