-- ==== Sys2Proof/Machine/Alu.lean ====
section
/-! DEFINITION. The meanings of the ALU and carry-flag instructions (42_alu.md R162 to R179). None
writes pc and none raises an exception. -/

namespace Sys2Proof.Machine

/-- ADD r (42_alu.md R162). -/
def execAdd (r : Reg) (s : State) : Host.Outcome State Fault Refusal :=
  completes 1 (s.setAccCy (addLaw s.acc (s.getReg r) s.cy))

/-- SUB r (42_alu.md R163). -/
def execSub (r : Reg) (s : State) : Host.Outcome State Fault Refusal :=
  completes 1 (s.setAccCy (subLaw s.acc (s.getReg r) s.cy))

/-- ADM: the memory nibble is only read (42_alu.md R164). -/
def execAdm (s : State) : Host.Outcome State Fault Refusal :=
  completes 1 (s.setAccCy (addLaw s.acc s.currentNibble s.cy))

/-- SBM: the memory nibble is only read (42_alu.md R165). -/
def execSbm (s : State) : Host.Outcome State Fault Refusal :=
  completes 1 (s.setAccCy (subLaw s.acc s.currentNibble s.cy))

/-- INC r: no flag is written (42_alu.md R166). -/
def execInc (r : Reg) (s : State) : Host.Outcome State Fault Refusal :=
  completes 1 (s.setReg r (incrementLaw (s.getReg r)))

/-- IAC: the incoming CY is ignored (42_alu.md R167). -/
def execIac (s : State) : Host.Outcome State Fault Refusal :=
  completes 1 (s.setAccCy (addLaw s.acc 1 false))

/-- DAC: the incoming CY is ignored (42_alu.md R168). -/
def execDac (s : State) : Host.Outcome State Fault Refusal :=
  completes 1 (s.setAccCy (decrementLaw s.acc))

/-- RAL (42_alu.md R169). -/
def execRal (s : State) : Host.Outcome State Fault Refusal :=
  completes 1 (s.setAccCy (rotateLeft s.acc s.cy))

/-- RAR (42_alu.md R170). -/
def execRar (s : State) : Host.Outcome State Fault Refusal :=
  completes 1 (s.setAccCy (rotateRight s.acc s.cy))

/-- CLB: `A <- 0; CY <- 0` (42_alu.md R171). -/
def execClb (s : State) : Host.Outcome State Fault Refusal := completes 1 (s.setAccCy (0, false))

/-- CLC: `CY <- 0` (42_alu.md R172). -/
def execClc (s : State) : Host.Outcome State Fault Refusal := completes 1 (s.setCy false)

/-- CMC: `CY <- 1 - CY` (42_alu.md R173). -/
def execCmc (s : State) : Host.Outcome State Fault Refusal := completes 1 (s.setCy (!s.cy))

/-- CMA: `A <- 15 - A` (42_alu.md R174). -/
def execCma (s : State) : Host.Outcome State Fault Refusal :=
  completes 1 (s.setAcc (complementLaw s.acc))

/-- STC: `CY <- 1` (42_alu.md R175). -/
def execStc (s : State) : Host.Outcome State Fault Refusal := completes 1 (s.setCy true)

/-- TCC: `A <- zext_4(CY); CY <- 0` (42_alu.md R176). -/
def execTcc (s : State) : Host.Outcome State Fault Refusal :=
  completes 1 (s.setAccCy (carryNibble s.cy, false))

/-- TCS: `A <- (CY = 1) ? 10 : 9; CY <- 0` (42_alu.md R177). -/
def execTcs (s : State) : Host.Outcome State Fault Refusal :=
  completes 1 (s.setAccCy (carrySubtractNibble s.cy, false))

/-- DAA (42_alu.md R178). -/
def execDaa (s : State) : Host.Outcome State Fault Refusal :=
  completes 1 (s.setAccCy (decimalAdjust s.acc s.cy))

/-- KBP: no flag is written (42_alu.md R179). -/
def execKbp (s : State) : Host.Outcome State Fault Refusal :=
  completes 1 (s.setAcc (keyboardLaw s.acc))

end Sys2Proof.Machine
end

