-- ==== Sys2Proof/Machine/ControlFlow.lean ====
section
/-! DEFINITION. The meanings of the control-flow and subroutine instructions (44_control_flow.md R221
to R228). None reads or writes CY but JCN, which reads it. -/

namespace Sys2Proof.Machine

/-- JUN a12: `pc <- a12` (44_control_flow.md R221). -/
def execJun (a12 : Addr) (s : State) : Host.Outcome State Fault Refusal := transfers a12 s

/-- JCN c, a8 (44_control_flow.md R223). -/
def execJcn (c : Nibble) (a8 : Byte) (s : State) : Host.Outcome State Fault Refusal :=
  if jumpCondition c s.acc s.cy then transfers (pageTarget (s.nxt 2) a8) s else completes 2 s

/-- ISZ r, a8: the incremented value decides (44_control_flow.md R224). -/
def execIsz (r : Reg) (a8 : Byte) (s : State) : Host.Outcome State Fault Refusal :=
  if incrementLaw (s.getReg r) ≠ 0#4 then
    transfers (pageTarget (s.nxt 2) a8) (s.setReg r (incrementLaw (s.getReg r)))
  else completes 2 (s.setReg r (incrementLaw (s.getReg r)))

/-- JIN p: `pc <- {nxt[11:8], x[2p], x[2p+1]}` (44_control_flow.md R227). -/
def execJin (p : Pair) (s : State) : Host.Outcome State Fault Refusal :=
  transfers (pageTarget (s.nxt 1) (s.getPair p)) s

/-- JMS a12: push nxt and jump, or StackOverflow at depth 3 (44_control_flow.md R225). With the
interceptor installed, a JMS to TRAP_TARGET does not execute (60_exceptions.md R263). -/
def execJms (a12 : Addr) (s : State) : Host.Outcome State Fault Refusal :=
  if s.trapped a12 then .fault (.trap s.pc)
  else
    match s.push (s.nxt 2) with
    | none => .next (s.raiseFatal .stackOverflow)
    | some t => transfers a12 t

/-- BBL d: pop into pc and load A, or StackUnderflow at depth 0 (44_control_flow.md R226). -/
def execBbl (d : Nibble) (s : State) : Host.Outcome State Fault Refusal :=
  match s.pop with
  | none => .next (s.raiseFatal .stackUnderflow)
  | some (ret, t) => transfers ret (t.setAcc d)

/-- HLT: entry to HALTED with reason HALT_INSTRUCTION, and the advance (44_control_flow.md R228). -/
def execHlt (s : State) : Host.Outcome State Fault Refusal :=
  completes 1 (s.enterHalted .haltInstruction)

end Sys2Proof.Machine
end

