-- ==== Sys2Proof/Machine/DataTransfer.lean ====
section
/-! DEFINITION. The meanings of the data-transfer instructions (43_data_transfer.md R200 to R204) and of
the unassigned words (40_execution.md R117). None reads or writes CY. -/

namespace Sys2Proof.Machine

/-- NOP (43_data_transfer.md R200). -/
def execNop (s : State) : Host.Outcome State Fault Refusal := completes 1 s

/-- LDM d: `A <- d` (43_data_transfer.md R201). -/
def execLdm (d : Nibble) (s : State) : Host.Outcome State Fault Refusal := completes 1 (s.setAcc d)

/-- LD r: `A <- x[r]` (43_data_transfer.md R202). -/
def execLd (r : Reg) (s : State) : Host.Outcome State Fault Refusal :=
  completes 1 (s.setAcc (s.getReg r))

/-- XCH r: `t <- A; A <- x[r]; x[r] <- t` (43_data_transfer.md R203). -/
def execXch (r : Reg) (s : State) : Host.Outcome State Fault Refusal :=
  completes 1 ((s.setAcc (s.getReg r)).setReg r s.acc)

/-- FIM p, data8: `pair(p) <- w2` (43_data_transfer.md R204). -/
def execFim (p : Pair) (data8 : Byte) (s : State) : Host.Outcome State Fault Refusal :=
  completes 2 (s.setPair p data8)

/-- Unassigned 0x02-0x03: a one-word no-op (40_execution.md R117). -/
def execUnassigned02 (s : State) : Host.Outcome State Fault Refusal := completes 1 s

/-- Unassigned 0x04-0x07: a one-word no-op (40_execution.md R117). -/
def execUnassigned04 (s : State) : Host.Outcome State Fault Refusal := completes 1 s

/-- Unassigned 0x08-0x0F: a one-word no-op (40_execution.md R117). -/
def execUnassigned08 (s : State) : Host.Outcome State Fault Refusal := completes 1 s

/-- Unassigned 0xFE-0xFF: a one-word no-op (40_execution.md R117). -/
def execUnassignedFE (s : State) : Host.Outcome State Fault Refusal := completes 1 s

end Sys2Proof.Machine
end

