-- ==== Sys2Proof/Machine/MemoryInterface.lean ====
section
/-! DEFINITION. The meanings of the memory-subsystem interface instructions (41_memory_interface.md
R131 to R147). None writes pc, none raises an exception, and none writes CY. -/

namespace Sys2Proof.Machine

/-- SRC p: `latch <- pair(p)` (41_memory_interface.md R131). -/
def execSrc (p : Pair) (s : State) : Host.Outcome State Fault Refusal :=
  completes 1 (s.setLatch (s.getPair p))

/-- DCL: `bank <- A[2:0]` (41_memory_interface.md R132). -/
def execDcl (s : State) : Host.Outcome State Fault Refusal := completes 1 (s.setBank (bankOf s.acc))

/-- WRM: `DM(bank, sel, off) <- A` (41_memory_interface.md R133). -/
def execWrm (s : State) : Host.Outcome State Fault Refusal :=
  completes 1 (s.writeDM s.bank s.sel s.off s.acc)

/-- RDM: `A <- DM(bank, sel, off)` (41_memory_interface.md R134). -/
def execRdm (s : State) : Host.Outcome State Fault Refusal := completes 1 (s.setAcc s.currentNibble)

/-- The shared write of a status nibble, `SM(bank, sel, idx) <- A` (41_memory_interface.md R135 to
R138). -/
def writeStatus (idx : Fin 4) (s : State) : Host.Outcome State Fault Refusal :=
  completes 1 (s.writeSM s.bank s.sel idx s.acc)

/-- The shared read of a status nibble, `A <- SM(bank, sel, idx)` (41_memory_interface.md R139 to
R142). -/
def readStatus (idx : Fin 4) (s : State) : Host.Outcome State Fault Refusal :=
  completes 1 (s.setAcc (s.readSM s.bank s.sel idx))

/-- WR0 (41_memory_interface.md R135). -/
def execWr0 (s : State) : Host.Outcome State Fault Refusal := writeStatus 0 s

/-- WR1 (41_memory_interface.md R136). -/
def execWr1 (s : State) : Host.Outcome State Fault Refusal := writeStatus 1 s

/-- WR2 (41_memory_interface.md R137). -/
def execWr2 (s : State) : Host.Outcome State Fault Refusal := writeStatus 2 s

/-- WR3 (41_memory_interface.md R138). -/
def execWr3 (s : State) : Host.Outcome State Fault Refusal := writeStatus 3 s

/-- RD0 (41_memory_interface.md R139). -/
def execRd0 (s : State) : Host.Outcome State Fault Refusal := readStatus 0 s

/-- RD1 (41_memory_interface.md R140). -/
def execRd1 (s : State) : Host.Outcome State Fault Refusal := readStatus 1 s

/-- RD2 (41_memory_interface.md R141). -/
def execRd2 (s : State) : Host.Outcome State Fault Refusal := readStatus 2 s

/-- RD3 (41_memory_interface.md R142). -/
def execRd3 (s : State) : Host.Outcome State Fault Refusal := readStatus 3 s

/-- WMP: `ram_port[bank][sel[3:2]] <- A` (41_memory_interface.md R143). -/
def execWmp (s : State) : Host.Outcome State Fault Refusal :=
  completes 1 (s.setRamPort s.bank (chipOf s.sel) s.acc)

/-- WRR: `rom_port[sel] <- A` (41_memory_interface.md R144). -/
def execWrr (s : State) : Host.Outcome State Fault Refusal := completes 1 (s.setRomPort s.sel s.acc)

/-- RDR: `A <- ROM_INPUT(sel)`; `rom_port` is not read (41_memory_interface.md R145). -/
def execRdr (s : State) : Host.Outcome State Fault Refusal := completes 1 (s.setAcc (s.romInput s.sel))

/-- WPM: a one-word no-op (41_memory_interface.md R146). -/
def execWpm (s : State) : Host.Outcome State Fault Refusal := completes 1 s

/-- FIN p: `pair(p) <- PM({nxt[11:8], x[0], x[1]})`, the address read before the write
(41_memory_interface.md R147). -/
def execFin (p : Pair) (s : State) : Host.Outcome State Fault Refusal :=
  completes 1 (s.setPair p (s.readPM s.tableAddr))

end Sys2Proof.Machine
end

