-- ==== Sys2Proof/Machine/Step.lean ====
section
/-! DEFINITION. One step of the machine (40_execution.md R111 to R118), and the placing of one
instruction where the next step fetches (log entry 6). -/

namespace Sys2Proof.Machine

/-- One atomic step: the gate of R111, then fetch, decode and execute (40_execution.md R112 to R118).
The meanings advance or write pc themselves (R116). -/
def step (s : State) : Host.Outcome State Fault Refusal :=
  match s.stepRefusal with
  | some r => .refused r
  | none => exec s.fetchInstr s

/-- `s` with the instruction of a table row (bit 0 the least significant bit of the first word) in the
program memory at pc, so that the next step runs it (log entry 6). -/
def State.withFetchWord (s : State) (nbits w : Nat) : State :=
  s.withWords (byteOf (w % 2 ^ nbits) 0) (byteOf (w % 2 ^ nbits) 1)

end Sys2Proof.Machine
end

