-- ==== Sys2Proof/Machine/HostInterface.lean ====
section
/-! DEFINITION. What the host sees of a run: loading and `start` (40_execution.md R110,
70_reset_and_hazards.md R270, R273), the result and the snapshot (60_exceptions.md R261, 10_state.md
R39), and the optional trace (40_execution.md R122). No step uses any of it. -/

namespace Sys2Proof.Machine

/-- The loader's one refusal that the block's contract states (70_reset_and_hazards.md R273). Raised by
`loadImage` alone, before any instruction. Safe. -/
inductive LoadError where
  /-- The image is longer than 4096 bytes. -/
  | tooLong (length : Nat)
  deriving DecidableEq, Repr

/-- Program memory holding `image[N]` at address N from `a` on, zero elsewhere (20_memory.md R51). -/
def imageCells : Nat → List Byte → Memory 8
  | _, [] => []
  | a, b :: bs => if b = 0#8 then imageCells (a + 1) bs else (a, b) :: imageCells (a + 1) bs

/-- The image loader's contract: at most 4096 bytes, zero-padded (70_reset_and_hazards.md R273). -/
def loadImage (image : List Byte) : Except LoadError (Memory 8) :=
  if image.length ≤ progSize then .ok (imageCells 0 image) else .error (.tooLong image.length)

/-- `start` with an image and a configuration: every element at its reset value and program memory as
loaded; the block is not started on a failed load (70_reset_and_hazards.md R270, R273). -/
def State.start (cfg : Config) (image : List Byte) : Except LoadError State :=
  match loadImage image with
  | .ok pm => .ok { State.reset with pm := pm, cfg := cfg }
  | .error e => .error e

/-- The 2-bit code of a halt reason (10_state.md R33). -/
def HaltReason.code : HaltReason → BitVec 2
  | .running => 0
  | .haltInstruction => 1
  | .stackOverflow => 2
  | .stackUnderflow => 3

/-- The output `halted` (40_execution.md R110, 10_state.md R32). -/
def State.halted (s : State) : Bool := decide (s.run = .halted)

/-- The halt result `(reason, A)`, valid once HALTED (60_exceptions.md R261). -/
def State.haltResult (s : State) : Option (HaltReason × Nibble) :=
  if s.halted then some (s.reason, s.acc) else none

/-- The snapshot tuple of 10_state.md R39; program memory and the configuration are not in it. -/
structure Snapshot where
  x : Vector Nibble 16
  acc : Nibble
  cy : Bool
  pc : Addr
  stack : Vector Addr 3
  depth : Fin 4
  latch : Byte
  bank : BitVec 3
  run : RunState
  reason : HaltReason
  dm : Memory 8
  sm : Memory 4
  ramPort : Vector (Vector Nibble 4) 8
  romPort : Vector Nibble 16
  deriving DecidableEq, Repr

/-- The snapshot the host receives, once HALTED (10_state.md R39, 60_exceptions.md R261). -/
def State.snapshot (s : State) : Option Snapshot :=
  if s.halted then
    some { x := s.x, acc := s.acc, cy := s.cy, pc := s.pc, stack := s.stack, depth := s.depth,
           latch := s.latch, bank := s.bank, run := s.run, reason := s.reason, dm := s.dm, sm := s.sm,
           ramPort := s.ramPort, romPort := s.romPort }
  else none

/-- The state after `n` steps of a run, where they all execute (40_execution.md R120). The fuel is the
executor's, not the block's (R121). A step that meets an intercepted JMS is not counted as executed
(DESIGN CHOICE, log entry 14). -/
def State.after : Nat → State → Option State
  | 0, s => some s
  | n + 1, s =>
    match step s with
    | .next t => State.after n t
    | .fault _ => none
    | .refused _ => none

/-- One record of the trace: `(a, w1, w2 if fetched, the state after)` (40_execution.md R122). -/
structure TraceRecord where
  a : Addr
  w1 : Byte
  w2 : Option Byte
  after : State
  deriving DecidableEq, Repr

/-- The record of the step from `s`, where one executes (40_execution.md R122). The spec does not say
whether the step that meets an intercepted JMS (60_exceptions.md R263) is an executed step with a record:
the model gives it none (DESIGN CHOICE, log entry 14). -/
def traceRecord (s : State) : Option TraceRecord :=
  match step s with
  | .next t =>
    some { a := s.pc, w1 := s.fetchFirst,
           w2 := if wordCount s.fetchFirst = 2 then some s.fetchSecond else none, after := t }
  | .fault _ => none
  | .refused _ => none

/-- The records of the first `n` steps, in order, ending where no step executes (40_execution.md
R122), an intercepted JMS among these ends (DESIGN CHOICE, log entry 14). The fuel is the executor's, not
the block's (R121). -/
def trace : Nat → State → List TraceRecord
  | 0, _ => []
  | n + 1, s =>
    match traceRecord s with
    | none => []
    | some r => r :: trace n r.after

end Sys2Proof.Machine
end

