-- ==== Sys2Proof/Safety.lean ====
section
/-! DEFINITION. The terms in which claims speak of good states, good runs and classes of instructions. -/

namespace Sys2Proof.Machine

/-- The invariant of states between steps: the memories in canonical form and inside their address
spaces (20_memory.md R50), run never DISPATCH (10_state.md R32), and reason RUNNING exactly while the
machine fetches (R33). Widths hold the rest of 10_state.md R37. -/
def State.Inv (s : State) : Prop :=
  s.pm.wf progSize = true ∧ s.dm.wf dataCells = true ∧ s.sm.wf statusNibbles = true ∧
    s.run ≠ .dispatch ∧ (s.reason = .running ↔ s.run = .fetch)

/-- The run has ended in a fatal control error (00_scope.md R12, 60_exceptions.md R250). -/
def State.Fatal (s : State) : Prop :=
  s.run = .halted ∧ (s.reason = .stackOverflow ∨ s.reason = .stackUnderflow)

/-- The next step raises no fatal control error and hands over no trap: the instruction at pc is no JMS
at depth 3, no BBL at depth 0 and no intercepted JMS (60_exceptions.md R250, R263). -/
def State.SafeToStep (s : State) : Prop :=
  (∀ a12, s.fetchInstr = .jms a12 → s.depth.val < 3 ∧ s.trapped a12 = false) ∧
    ∀ d, s.fetchInstr = .bbl d → 0 < s.depth.val

/-! ### Classes of instructions, as the spec lists them -/

/-- The instructions that write CY, exactly those of 10_state.md R25. -/
def writesCarry : Instr → Bool
  | .add _ | .sub _ | .adm | .sbm | .iac | .dac | .ral | .rar | .clb | .clc | .cmc | .stc | .tcc
  | .tcs | .daa => true
  | _ => false

/-- The instructions that read CY, exactly those of 10_state.md R25. -/
def readsCarry : Instr → Bool
  | .add _ | .sub _ | .adm | .sbm | .ral | .rar | .cmc | .tcc | .tcs | .daa | .jcn _ _ => true
  | _ => false

/-- The instructions whose rules write A: the ALU operations on A (42_alu.md R162 to R165, R167 to
R171, R174, R176 to R179), the reads into A (41_memory_interface.md R134, R139 to R142, R145) and LDM,
LD, XCH and BBL (10_state.md R23). -/
def writesAcc : Instr → Bool
  | .add _ | .sub _ | .adm | .sbm | .iac | .dac | .ral | .rar | .clb | .cma | .tcc | .tcs | .daa
  | .kbp | .rdm | .rd0 | .rd1 | .rd2 | .rd3 | .rdr | .ldm _ | .ld _ | .xch _ | .bbl _ => true
  | _ => false

/-- Whether an instruction writes register `q`: XCH, INC and ISZ their register, FIM and FIN their
pair (10_state.md R22). -/
def writesReg (q : Reg) : Instr → Bool
  | .xch r | .inc r | .isz r _ => decide (q = r)
  | .fim p _ | .fin p => decide (q.val = 2 * p.val ∨ q.val = 2 * p.val + 1)
  | _ => false

/-- The instructions whose rules write pc themselves (40_execution.md R116). -/
def writesPc : Instr → Bool
  | .jun _ | .jcn _ _ | .isz _ _ | .jms _ | .bbl _ | .jin _ => true
  | _ => false

/-- The status nibble an instruction writes (41_memory_interface.md R135 to R138). -/
def statusWritten : Instr → Option (Fin 4)
  | .wr0 => some 0
  | .wr1 => some 1
  | .wr2 => some 2
  | .wr3 => some 3
  | _ => none

end Sys2Proof.Machine
end

