-- ==== Sys2Proof/Certificates/Slice0/Obligations.lean ====
section
/-! DEFINITION. The statements for the provers. Each names the rules it formalises. -/

open Sys2Proof Sys2Proof.Machine

/-! ### Encoding -/

/-- Decoding an encoded well-formed instruction gives it back, whatever bytes follow (30_encoding.md
R82, R83, R85 to R90). -/
def Obligations.DecodeOfEncodeReturnsInstruction : Prop :=
  ∀ (i : Instr) (rest : List Byte), i.wellFormed = true → decode (encode i ++ rest) = .ok (i, rest)

/-- Every pair of words decodes to a well-formed instruction whose encoding is those words, the second
only where the instruction has one: each word has one meaning (30_encoding.md R91). -/
def Obligations.EveryWordDecodesAndEncodesBack : Prop :=
  ∀ w1 w2 : Byte, (decodeWords w1 w2).wellFormed = true ∧
    encode (decodeWords w1 w2) = if (decodeWords w1 w2).words = 2 then [w1, w2] else [w1]

/-- A decoder tells the length from the first word alone, by the length function of 30_encoding.md R92,
and consumes that many words; the two-word instructions are exactly JCN, FIM, JUN, JMS and ISZ (R81). -/
def Obligations.LengthFollowsFromFirstWord : Prop :=
  (∀ w1 w2 : Byte, (decodeWords w1 w2).words =
    if w1.toNat / 16 = 1 ∨ w1.toNat / 16 = 4 ∨ w1.toNat / 16 = 5 ∨ w1.toNat / 16 = 7 ∨
      (w1.toNat / 16 = 2 ∧ w1.toNat % 2 = 0) then 2 else 1) ∧
  (∀ (w1 w2 : Byte) (rest : List Byte), ∃ i,
    decode (w1 :: w2 :: rest) = .ok (i, (w1 :: w2 :: rest).drop i.words)) ∧
  ∀ i : Instr, i.words = 2 ↔ (∃ c a8, i = .jcn c a8) ∨ (∃ p d, i = .fim p d) ∨ (∃ a, i = .jun a) ∨
    (∃ a, i = .jms a) ∨ ∃ r a8, i = .isz r a8

/-- Words written out from the opcode map, at least one of each of the sixteen families w1[7:4], decode to
their instructions (30_encoding.md R80, R85 to R90). -/
def Obligations.SampleWordsDecode : Prop :=
  decodeWords 0x00 0x00 = .nop ∧ decodeWords 0x01 0x00 = .hlt ∧
  decodeWords 0x0F 0x00 = .unassigned08 0x0F ∧ decodeWords 0x14 0x20 = .jcn 4 0x20 ∧
  decodeWords 0x22 0x5A = .fim 1 0x5A ∧ decodeWords 0x25 0x00 = .src 2 ∧
  decodeWords 0x32 0x00 = .fin 1 ∧ decodeWords 0x37 0x00 = .jin 3 ∧
  decodeWords 0x43 0xA5 = .jun 0x3A5 ∧ decodeWords 0x52 0x34 = .jms 0x234 ∧
  decodeWords 0x67 0x00 = .inc 7 ∧ decodeWords 0x74 0x10 = .isz 4 0x10 ∧
  decodeWords 0x83 0x00 = .add 3 ∧ decodeWords 0x95 0x00 = .sub 5 ∧
  decodeWords 0xA9 0x00 = .ld 9 ∧ decodeWords 0xB2 0x00 = .xch 2 ∧
  decodeWords 0xC3 0x00 = .bbl 3 ∧ decodeWords 0xD5 0x00 = .ldm 5 ∧
  decodeWords 0xE3 0x00 = .wpm ∧ decodeWords 0xFD 0x00 = .dcl

/-! ### The step -/

/-- While fetching, a step is `exec` of the instruction that the two words at pc, modulo 4096, decode
to; the meaning itself moves pc (40_execution.md R112 to R116). -/
def Obligations.StepRunsDecodedInstruction : Prop :=
  ∀ (s : State) (i : Instr) (rest : List Byte), s.run = .fetch →
    decode [s.readPM s.pc, s.readPM (s.pc + 1)] = .ok (i, rest) → i.wellFormed = true →
    step s = exec i s

/-- What `withFetchWord` places is what the next step runs (the model's own convention, log entry 6). -/
def Obligations.StepRunsThePlacedWord : Prop :=
  ∀ (s : State) (nbits w : Nat) (i : Instr), decodeTableWord nbits w = some i →
    step (s.withFetchWord nbits w) = exec i (s.withFetchWord nbits w)

/-- There is a step exactly while run = FETCH (40_execution.md R111): otherwise the model refuses by
name, its own choice (log entry 5); while fetching, the step answers a next state but for an intercepted
JMS, which the model answers with a fault, its own choice (60_exceptions.md R263, log entry 3). -/
def Obligations.StepExistsOnlyWhileFetching : Prop :=
  ∀ s : State,
    (s.run ≠ .fetch → step s = .refused (.noStep s.run)) ∧
    (s.run = .fetch → (∃ t, step s = .next t) ∨
      ∃ a12, s.fetchInstr = .jms a12 ∧ s.cfg.trapInterceptor = true ∧ s.cfg.trapTarget = some a12 ∧
        step s = .fault (.trap s.pc))

/-- Every instruction whose rule does not write pc completes and leaves pc at the next-sequential
address, modulo 4096 (10_state.md R27, 40_execution.md R116). Ill-formed terms are included, by the
model's own choice (log entry 9). -/
def Obligations.OtherInstructionsAdvancePcByTheirWords : Prop :=
  ∀ (i : Instr) (s : State), writesPc i = false →
    ∃ t, exec i s = .next t ∧ t.pc.toNat = (s.pc.toNat + i.words) % 4096

/-- An unassigned word is a one-word no-op: nothing changes but pc (40_execution.md R117). The second
clause names each unassigned row, for the words of that row. -/
def Obligations.UnassignedWordsAreNoOps : Prop :=
  (∀ (w w2 : Byte) (s : State), (2 ≤ w.toNat ∧ w.toNat ≤ 15) ∨ 254 ≤ w.toNat →
    exec (decodeWords w w2) s = .next { s with pc := s.pc + 1 }) ∧
  ∀ (w : Byte) (s : State),
    (2 ≤ w.toNat ∧ w.toNat ≤ 3 →
      exec (.unassigned02 w) s = .next { s with pc := s.pc + 1 }) ∧
    (4 ≤ w.toNat ∧ w.toNat ≤ 7 →
      exec (.unassigned04 w) s = .next { s with pc := s.pc + 1 }) ∧
    (8 ≤ w.toNat ∧ w.toNat ≤ 15 →
      exec (.unassigned08 w) s = .next { s with pc := s.pc + 1 }) ∧
    (254 ≤ w.toNat → exec (.unassignedFE w) s = .next { s with pc := s.pc + 1 })

/-- A run ends only by HLT, by a JMS at depth 3 or by a BBL at depth 0, each with its own reason
(40_execution.md R121, 60_exceptions.md R250). -/
def Obligations.RunEndsOnlyByHaltOrStackError : Prop :=
  ∀ s t : State, step s = .next t → t.run ≠ .fetch → t.run = .halted ∧
    ((s.fetchInstr = .hlt ∧ t.reason = .haltInstruction) ∨
     (∃ a12, s.fetchInstr = .jms a12 ∧ s.depth.val = 3 ∧ t.reason = .stackOverflow) ∨
     ∃ d, s.fetchInstr = .bbl d ∧ s.depth.val = 0 ∧ t.reason = .stackUnderflow)

/-- The halt result is the reason and the accumulator that the halting or failing instruction found
(60_exceptions.md R261). -/
def Obligations.HaltResultIsTheAccumulatorFound : Prop :=
  ∀ s t : State, step s = .next t → t.run = .halted → t.haltResult = some (t.reason, s.acc)

/-- A step from a state that is safe to step raises no fatal control error and ends in no fault
(60_exceptions.md R250, R263). -/
def Obligations.SafeStatesStepWithoutFatalError : Prop :=
  ∀ s : State, s.run = .fetch → s.SafeToStep → ∃ t, step s = .next t ∧ ¬ t.Fatal

/-! ### Invariant, reset and start -/

/-- Every step keeps the invariant, from every state that meets it (10_state.md R32, R33, R37). -/
def Obligations.StepKeepsInvariant : Prop :=
  ∀ s t : State, s.Inv → step s = .next t → t.Inv

/-- The invariant holds after every successful `start`, and the host's `State.reset`, where it holds too,
is the `start` of the empty image with the default configuration: the model's own choice (log entries 2
and 4). -/
def Obligations.ResetMeetsInvariant : Prop :=
  (∀ (cfg : Config) (image : List Byte) (s : State), State.start cfg image = .ok s → s.Inv) ∧
    State.start Config.default [] = .ok State.reset ∧ State.reset.Inv

/-- `start` gives every element the reset value of 10_state.md R40, with the zero-padded image in program
memory; the given configuration is in the field the model carries it in (log entry 1). -/
def Obligations.StartGivesResetValuesAndImage : Prop :=
  ∀ (cfg : Config) (image : List Byte), image.length ≤ 4096 →
    ∃ s, State.start cfg image = .ok s ∧ (∀ r, s.getReg r = 0) ∧ s.acc = 0 ∧ s.cy = false ∧
      s.pc = 0 ∧ (∀ k : Fin 3, s.stack[k.val] = 0) ∧ s.depth = 0 ∧ s.latch = 0 ∧ s.bank = 0 ∧
      s.run = .fetch ∧ s.reason = .running ∧ (∀ b e o, s.readDM b e o = 0) ∧
      (∀ b e k, s.readSM b e k = 0) ∧ (∀ b c, s.getRamPort b c = 0) ∧ (∀ e, s.getRomPort e = 0) ∧
      (∀ a : Addr, s.readPM a = image.getD a.toNat 0) ∧ s.cfg = cfg

/-- An image longer than 4096 bytes is a LoadError and the block does not start (70_reset_and_hazards.md
R273). -/
def Obligations.LongImageIsALoadError : Prop :=
  ∀ (cfg : Config) (image : List Byte),
    (∃ e, State.start cfg image = .error e) ↔ 4096 < image.length

/-! ### What no other instruction changes -/

/-- No instruction outside the list of 10_state.md R25 writes CY. -/
def Obligations.OnlyListedInstructionsWriteCarry : Prop :=
  ∀ (i : Instr) (s t : State), writesCarry i = false → exec i s = .next t → t.cy = s.cy

/-- An instruction outside the readers of 10_state.md R25 does the same whatever CY holds: it answers
next states that differ in CY at most. -/
def Obligations.OnlyListedInstructionsReadCarry : Prop :=
  ∀ (i : Instr) (s t : State) (c : Bool), readsCarry i = false → exec i s = .next t →
    ∃ t', exec i { s with cy := c } = .next t' ∧ { t' with cy := t.cy } = t ∧
      (t'.cy = t.cy ∨ (t'.cy = c ∧ t.cy = s.cy))

/-- The latch changes only by SRC, the bank only by DCL, the depth only by JMS and BBL, and run and
reason only on entry to HALTED (10_state.md R35). -/
def Obligations.ControlStateHasOnlyItsWriters : Prop :=
  ∀ (i : Instr) (s t : State), exec i s = .next t →
    (t.latch ≠ s.latch → ∃ p, i = .src p) ∧ (t.bank ≠ s.bank → i = .dcl) ∧
    (t.depth ≠ s.depth → (∃ a12, i = .jms a12) ∨ ∃ d, i = .bbl d) ∧
    (t.run ≠ s.run ∨ t.reason ≠ s.reason →
      t.run = .halted ∧ (i = .hlt ∨ (∃ a12, i = .jms a12) ∨ ∃ d, i = .bbl d))

/-- A general register changes only by XCH, INC or ISZ on it, or by FIM or FIN on its pair (10_state.md
R22). -/
def Obligations.RegistersHaveOnlyTheirWriters : Prop :=
  ∀ (i : Instr) (s t : State) (q : Reg), writesReg q i = false → exec i s = .next t →
    t.getReg q = s.getReg q

/-- The accumulator changes only by the instructions whose rules write it (10_state.md R23). -/
def Obligations.AccumulatorHasOnlyItsWriters : Prop :=
  ∀ (i : Instr) (s t : State), writesAcc i = false → exec i s = .next t → t.acc = s.acc

/-- Every nibble of data and status memory, every output latch and every program word reads as before,
except: WRM's nibble at (bank, sel, off), WR0-WR3's at (bank, sel, index), WMP's latch at (bank,
sel[3:2]) and WRR's at sel (20_memory.md R50, R52, R54, R55, 10_state.md R34). -/
def Obligations.MemoriesChangeOnlyWhereWritten : Prop :=
  ∀ (i : Instr) (s t : State), exec i s = .next t →
    (∀ b e o, ¬ (i = .wrm ∧ b = s.bank ∧ e = s.sel ∧ o = s.off) → t.readDM b e o = s.readDM b e o) ∧
    (∀ b e k, ¬ (statusWritten i = some k ∧ b = s.bank ∧ e = s.sel) →
      t.readSM b e k = s.readSM b e k) ∧
    (∀ b c, ¬ (i = .wmp ∧ b = s.bank ∧ c = chipOf s.sel) → t.getRamPort b c = s.getRamPort b c) ∧
    (∀ e, ¬ (i = .wrr ∧ e = s.sel) → t.getRomPort e = s.getRomPort e) ∧
    ∀ a, t.readPM a = s.readPM a

/-- A stack entry changes only by a JMS that pushes at that entry's index (10_state.md R28, R29). -/
def Obligations.StackEntriesChangeOnlyByPush : Prop :=
  ∀ (i : Instr) (s t : State) (k : Fin 3), exec i s = .next t →
    t.stack[k.val] ≠ s.stack[k.val] → k.val = s.depth.val ∧ ∃ a12, i = .jms a12

/-- Any number of steps leaves program memory and the configuration as they were: instruction fetch
always sees the loaded image (20_memory.md R52, R65, 00_scope.md R7). -/
def Obligations.RunsNeverChangeProgramOrConfiguration : Prop :=
  ∀ (n : Nat) (s u : State), State.after n s = some u → u.pm = s.pm ∧ u.cfg = s.cfg

/-- No instruction reads an output latch back: from states that differ in the latches only, the same
instruction answers next states that differ in the latches only (10_state.md R34). -/
def Obligations.OutputLatchesAreNeverRead : Prop :=
  ∀ (i : Instr) (s t : State) (ram : Vector (Vector Nibble 4) 8) (rom : Vector Nibble 16),
    exec i s = .next t →
    ∃ t', exec i { s with ramPort := ram, romPort := rom } = .next t' ∧
      { t' with ramPort := t.ramPort, romPort := t.romPort } = t

/-- Stack entries at or above the depth are unobservable: from states that agree on everything but
those, a step answers the same kind of outcome and states that again agree on everything but those
(10_state.md R29). -/
def Obligations.StaleStackEntriesAreUnobservable : Prop :=
  ∀ (s t : State) (stack' : Vector Addr 3),
    (∀ k : Fin 3, k.val < s.depth.val → stack'[k.val] = s.stack[k.val]) → step s = .next t →
    ∃ t', step { s with stack := stack' } = .next t' ∧ { t' with stack := t.stack } = t ∧
      ∀ k : Fin 3, k.val < t.depth.val → t'.stack[k.val] = t.stack[k.val]

/-! ### ALU and carry -/

/-- ADD and ADM: the sum A + operand + CY is the new A with the new CY as bit 4, and nothing else
changes but pc (42_alu.md R160, R162, R164). -/
def Obligations.AddResults : Prop :=
  ∀ s : State,
    (∀ r : Reg, encode (.add r) = [BitVec.ofNat 8 (0x80 + r.val)] ∧
      ∃ t, exec (.add r) s = .next t ∧ t = { s with acc := t.acc, cy := t.cy, pc := s.pc + 1 } ∧
        t.acc.toNat + 16 * t.cy.toNat = s.acc.toNat + (s.getReg r).toNat + s.cy.toNat) ∧
    encode .adm = [0xEB] ∧
      ∃ t, exec .adm s = .next t ∧ t = { s with acc := t.acc, cy := t.cy, pc := s.pc + 1 } ∧
        t.acc.toNat + 16 * t.cy.toNat =
          s.acc.toNat + (s.readDM s.bank s.sel s.off).toNat + s.cy.toNat

/-- SUB and SBM: with an incoming CY = 1 as a borrow, the new A is A - operand - CY modulo 16 and the
new CY is 0 exactly when a borrow occurred; nothing else changes but pc (42_alu.md R161, R163, R165). -/
def Obligations.SubtractResults : Prop :=
  ∀ s : State,
    (∀ r : Reg, encode (.sub r) = [BitVec.ofNat 8 (0x90 + r.val)] ∧
      ∃ t, exec (.sub r) s = .next t ∧ t = { s with acc := t.acc, cy := t.cy, pc := s.pc + 1 } ∧
        t.acc.toNat + (s.getReg r).toNat + s.cy.toNat + 16 * t.cy.toNat = s.acc.toNat + 16 ∧
        (t.cy = false ↔ s.acc.toNat < (s.getReg r).toNat + s.cy.toNat)) ∧
    encode .sbm = [0xE8] ∧
      ∃ t, exec .sbm s = .next t ∧ t = { s with acc := t.acc, cy := t.cy, pc := s.pc + 1 } ∧
        t.acc.toNat + (s.readDM s.bank s.sel s.off).toNat + s.cy.toNat + 16 * t.cy.toNat =
          s.acc.toNat + 16 ∧
        (t.cy = false ↔ s.acc.toNat < (s.readDM s.bank s.sel s.off).toNat + s.cy.toNat)

/-- INC adds 1 modulo 16 to its register and writes no flag; IAC and DAC write A and CY, the incoming
CY ignored (42_alu.md R166, R167, R168). -/
def Obligations.IncrementAndDecrementResults : Prop :=
  ∀ s : State,
    (∀ r : Reg, encode (.inc r) = [BitVec.ofNat 8 (0x60 + r.val)] ∧
      ∃ t, exec (.inc r) s = .next t ∧ t = { s with x := t.x, pc := s.pc + 1 } ∧
        ∀ q, (t.getReg q).toNat = if q = r then ((s.getReg r).toNat + 1) % 16
          else (s.getReg q).toNat) ∧
    (encode .iac = [0xF2] ∧
      ∃ t, exec .iac s = .next t ∧ t = { s with acc := t.acc, cy := t.cy, pc := s.pc + 1 } ∧
        t.acc.toNat + 16 * t.cy.toNat = s.acc.toNat + 1) ∧
    encode .dac = [0xF8] ∧
      ∃ t, exec .dac s = .next t ∧ t = { s with acc := t.acc, cy := t.cy, pc := s.pc + 1 } ∧
        t.acc.toNat + 16 * t.cy.toNat = s.acc.toNat + 15

/-- RAL and RAR rotate the five bits of CY and A (42_alu.md R169, R170). -/
def Obligations.RotateResults : Prop :=
  ∀ s : State,
    (encode .ral = [0xF5] ∧
      ∃ t, exec .ral s = .next t ∧ t = { s with acc := t.acc, cy := t.cy, pc := s.pc + 1 } ∧
        16 * t.cy.toNat + t.acc.toNat = 2 * s.acc.toNat + s.cy.toNat) ∧
    encode .rar = [0xF6] ∧
      ∃ t, exec .rar s = .next t ∧ t = { s with acc := t.acc, cy := t.cy, pc := s.pc + 1 } ∧
        2 * t.acc.toNat + t.cy.toNat = 16 * s.cy.toNat + s.acc.toNat

/-- Five RALs in a row, or five RARs, restore A and CY and everything else but pc (42_alu.md R169,
R170, corner cases). -/
def Obligations.FiveRotatesRestoreAccumulatorAndCarry : Prop :=
  ∀ (i : Instr) (s s1 s2 s3 s4 s5 : State), i = .ral ∨ i = .rar →
    exec i s = .next s1 → exec i s1 = .next s2 → exec i s2 = .next s3 → exec i s3 = .next s4 →
    exec i s4 = .next s5 → s5 = { s with pc := s.pc + 5 }

/-- CLB, CLC, CMC, CMA and STC (42_alu.md R171 to R175). -/
def Obligations.ClearSetAndComplementResults : Prop :=
  ∀ s : State,
    (encode .clb = [0xF0] ∧ exec .clb s = .next { s with acc := 0, cy := false, pc := s.pc + 1 }) ∧
    (encode .clc = [0xF1] ∧ exec .clc s = .next { s with cy := false, pc := s.pc + 1 }) ∧
    (encode .cmc = [0xF3] ∧ ∃ t, exec .cmc s = .next t ∧
      t = { s with cy := t.cy, pc := s.pc + 1 } ∧ t.cy.toNat + s.cy.toNat = 1) ∧
    (encode .cma = [0xF4] ∧ ∃ t, exec .cma s = .next t ∧
      t = { s with acc := t.acc, pc := s.pc + 1 } ∧ t.acc.toNat + s.acc.toNat = 15) ∧
    encode .stc = [0xFA] ∧ exec .stc s = .next { s with cy := true, pc := s.pc + 1 }

/-- TCC, TCS, DAA and KBP (42_alu.md R176 to R179). -/
def Obligations.TransferAndDecimalResults : Prop :=
  ∀ s : State,
    (encode .tcc = [0xF7] ∧ ∃ t, exec .tcc s = .next t ∧
      t = { s with acc := t.acc, cy := false, pc := s.pc + 1 } ∧ t.acc.toNat = s.cy.toNat) ∧
    (encode .tcs = [0xF9] ∧ ∃ t, exec .tcs s = .next t ∧
      t = { s with acc := t.acc, cy := false, pc := s.pc + 1 } ∧ t.acc.toNat = 9 + s.cy.toNat) ∧
    (encode .daa = [0xFB] ∧ ∃ t, exec .daa s = .next t ∧
      t = { s with acc := t.acc, cy := t.cy, pc := s.pc + 1 } ∧
      (if 9 < s.acc.toNat ∨ s.cy = true then
        t.acc.toNat = (s.acc.toNat + 6) % 16 ∧ (t.cy = true ↔ s.cy = true ∨ 15 < s.acc.toNat + 6)
      else t.acc = s.acc ∧ t.cy = s.cy)) ∧
    encode .kbp = [0xFC] ∧ ∃ t, exec .kbp s = .next t ∧
      t = { s with acc := t.acc, pc := s.pc + 1 } ∧ (s.acc = 0 → t.acc = 0) ∧
      (∀ k < 4, s.acc.toNat = 2 ^ k → t.acc.toNat = k + 1) ∧
      (s.acc ≠ 0 → (∀ k < 4, s.acc.toNat ≠ 2 ^ k) → t.acc = 15)

/-- CMC turns the carry that SUB wrote into the borrow that the next SUB reads (70_reset_and_hazards.md
R277): CLC, SUB of the low digits, CMC and SUB of the high digits subtract 8-bit numbers. -/
def Obligations.ComplementedCarryChainsSubtraction : Prop :=
  ∀ (s0 s1 s2 s3 : State) (lo hi : Reg) (a : Nibble), s0.cy = false →
    exec (.sub lo) s0 = .next s1 → exec .cmc s1 = .next s2 →
    exec (.sub hi) { s2 with acc := a } = .next s3 →
    (16 * s3.acc.toNat + s1.acc.toNat + 16 * (s0.getReg hi).toNat + (s0.getReg lo).toNat) % 256 =
      (16 * a.toNat + s0.acc.toNat) % 256 ∧
    (s3.cy = false ↔
      16 * a.toNat + s0.acc.toNat < 16 * (s0.getReg hi).toNat + (s0.getReg lo).toNat)

/-- ADD then DAA adds decimal digits: from digits 0 to 9 and a carry in, A is the sum modulo 10 and CY
is the decimal carry (42_alu.md R162, R178). -/
def Obligations.AddThenAdjustAddsDecimalDigits : Prop :=
  ∀ (s s1 s2 : State) (r : Reg), s.acc.toNat ≤ 9 → (s.getReg r).toNat ≤ 9 →
    exec (.add r) s = .next s1 → exec .daa s1 = .next s2 →
    s2.acc.toNat + 10 * s2.cy.toNat = s.acc.toNat + (s.getReg r).toNat + s.cy.toNat ∧
      s2.acc.toNat ≤ 9

/-! ### Data transfer -/

/-- NOP, LDM, LD, XCH and FIM (43_data_transfer.md R200 to R204). -/
def Obligations.DataTransferResults : Prop :=
  ∀ s : State,
    (encode .nop = [0x00] ∧ exec .nop s = .next { s with pc := s.pc + 1 }) ∧
    (∀ d : Nibble, encode (.ldm d) = [BitVec.ofNat 8 (0xD0 + d.toNat)] ∧
      exec (.ldm d) s = .next { s with acc := d, pc := s.pc + 1 }) ∧
    (∀ r : Reg, encode (.ld r) = [BitVec.ofNat 8 (0xA0 + r.val)] ∧
      exec (.ld r) s = .next { s with acc := s.getReg r, pc := s.pc + 1 }) ∧
    (∀ r : Reg, encode (.xch r) = [BitVec.ofNat 8 (0xB0 + r.val)] ∧
      ∃ t, exec (.xch r) s = .next t ∧
        t = { s with acc := s.getReg r, x := t.x, pc := s.pc + 1 } ∧
        ∀ q, t.getReg q = if q = r then s.acc else s.getReg q) ∧
    ∀ (p : Pair) (d : Byte), encode (.fim p d) = [BitVec.ofNat 8 (0x20 + 2 * p.val), d] ∧
      ∃ t, exec (.fim p d) s = .next t ∧ t = { s with x := t.x, pc := s.pc + 2 } ∧
        ∀ q, (t.getReg q).toNat = if q.val = 2 * p.val then d.toNat / 16
          else if q.val = 2 * p.val + 1 then d.toNat % 16 else (s.getReg q).toNat

/-- XCH twice restores the accumulator and the register (43_data_transfer.md R203, corner cases). -/
def Obligations.ExchangeTwiceRestores : Prop :=
  ∀ (r : Reg) (s s1 s2 : State), exec (.xch r) s = .next s1 → exec (.xch r) s1 = .next s2 →
    s2 = { s with pc := s.pc + 2 }

/-! ### Control flow -/

/-- JUN jumps to its 12-bit target (44_control_flow.md R221). -/
def Obligations.JumpGoesToItsTarget : Prop :=
  ∀ (s : State) (a12 : Addr),
    encode (.jun a12) =
      [BitVec.ofNat 8 (0x40 + a12.toNat / 256), BitVec.ofNat 8 (a12.toNat % 256)] ∧
    exec (.jun a12) s = .next { s with pc := a12 }

/-- JCN: where the OR of the selected tests, inverted by c[3], holds, pc takes the page of the
next-sequential address and the low byte a8; else pc advances by two; nothing else changes
(44_control_flow.md R220, R222, R223). -/
def Obligations.ConditionalJumpResult : Prop :=
  ∀ (s : State) (c : Nibble) (a8 : Byte),
    encode (.jcn c a8) = [BitVec.ofNat 8 (0x10 + c.toNat), a8] ∧
    ∃ t, exec (.jcn c a8) s = .next t ∧ t = { s with pc := t.pc } ∧
      t.pc.toNat =
        if (c.toNat / 8 % 2 = 1 ↔
            ¬ ((c.toNat / 4 % 2 = 1 ∧ s.acc = 0) ∨ (c.toNat / 2 % 2 = 1 ∧ s.cy = true)))
        then (s.pc.toNat + 2) % 4096 / 256 * 256 + a8.toNat
        else (s.pc.toNat + 2) % 4096

/-- ISZ increments its register modulo 16, writes no flag, and jumps in the page of the next-sequential
address unless the result is 0 (44_control_flow.md R224). -/
def Obligations.IncrementAndSkipResult : Prop :=
  ∀ (s : State) (r : Reg) (a8 : Byte),
    encode (.isz r a8) = [BitVec.ofNat 8 (0x70 + r.val), a8] ∧
    ∃ t, exec (.isz r a8) s = .next t ∧ t = { s with x := t.x, pc := t.pc } ∧
      (∀ q, (t.getReg q).toNat = if q = r then ((s.getReg r).toNat + 1) % 16
        else (s.getReg q).toNat) ∧
      t.pc.toNat = if (s.getReg r).toNat = 15 then (s.pc.toNat + 2) % 4096
        else (s.pc.toNat + 2) % 4096 / 256 * 256 + a8.toNat

/-- JIN jumps in the page of the next-sequential address to the pair's value (44_control_flow.md
R227). -/
def Obligations.IndirectJumpResult : Prop :=
  ∀ (s : State) (p : Pair) (hi lo : Reg), hi.val = 2 * p.val → lo.val = 2 * p.val + 1 →
    encode (.jin p) = [BitVec.ofNat 8 (0x31 + 2 * p.val)] ∧
    ∃ t, exec (.jin p) s = .next t ∧ t = { s with pc := t.pc } ∧
      t.pc.toNat = (s.pc.toNat + 1) % 4096 / 256 * 256 + 16 * (s.getReg hi).toNat +
        (s.getReg lo).toNat

/-- JMS with room on the stack pushes the address after its second word and jumps (44_control_flow.md
R225); at depth 3 it only enters HALTED with StackOverflow. The hypothesis is that no interceptor takes
it (60_exceptions.md R263). -/
def Obligations.CallPushesReturnAddress : Prop :=
  ∀ (s : State) (a12 : Addr), ¬ (s.cfg.trapInterceptor = true ∧ s.cfg.trapTarget = some a12) →
    encode (.jms a12) =
      [BitVec.ofNat 8 (0x50 + a12.toNat / 256), BitVec.ofNat 8 (a12.toNat % 256)] ∧
    (s.depth.val < 3 → ∃ t, exec (.jms a12) s = .next t ∧
      t = { s with stack := t.stack, depth := t.depth, pc := a12 } ∧
      t.depth.val = s.depth.val + 1 ∧
      ∀ k : Fin 3, t.stack[k.val] = if k.val = s.depth.val then s.pc + 2 else s.stack[k.val]) ∧
    (s.depth.val = 3 →
      exec (.jms a12) s = .next { s with run := .halted, reason := .stackOverflow })

/-- BBL with an entry on the stack pops it into pc, loads A and leaves the entry in place
(44_control_flow.md R226); at depth 0 it only enters HALTED with StackUnderflow (60_exceptions.md
R254). -/
def Obligations.ReturnPopsAndLoads : Prop :=
  ∀ (s : State) (d : Nibble),
    encode (.bbl d) = [BitVec.ofNat 8 (0xC0 + d.toNat)] ∧
    (∀ k : Fin 3, s.depth.val = k.val + 1 → ∃ t, exec (.bbl d) s = .next t ∧
      t = { s with depth := t.depth, pc := s.stack[k.val], acc := d } ∧ t.depth.val = k.val) ∧
    (s.depth.val = 0 →
      exec (.bbl d) s = .next { s with run := .halted, reason := .stackUnderflow })

/-- HLT enters HALTED with reason HALT_INSTRUCTION and advances pc (44_control_flow.md R228). -/
def Obligations.HaltEntersHalted : Prop :=
  ∀ s : State, encode .hlt = [0x01] ∧
    exec .hlt s = .next { s with run := .halted, reason := .haltInstruction, pc := s.pc + 1 }

/-- A fatal control error has no other effect: the state is the one the failing instruction found, pc
included, but for run and reason (60_exceptions.md R252). -/
def Obligations.FatalErrorsChangeOnlyRunAndReason : Prop :=
  ∀ s t : State, step s = .next t → t.Fatal →
    t = { s with run := .halted, reason := t.reason } ∧
    ((t.reason = .stackOverflow ∧ s.depth.val = 3) ∨ (t.reason = .stackUnderflow ∧ s.depth.val = 0))

/-- The trap extension point: a JMS to TRAP_TARGET with the interceptor installed is handed to the host
with its address, which the model answers with a fault (its own choice, log entry 3); every other
instruction answers a next state and does not depend on the trap parameters (60_exceptions.md R263). -/
def Obligations.InterceptorTakesOnlyItsTarget : Prop :=
  (∀ (i : Instr) (s : State) (f : Fault), exec i s = .fault f ↔
    f = .trap s.pc ∧ s.cfg.trapInterceptor = true ∧
      ∃ a12, s.cfg.trapTarget = some a12 ∧ i = .jms a12) ∧
  (∀ (i : Instr) (s : State), (∃ f, exec i s = .fault f) ∨ ∃ t, exec i s = .next t) ∧
  ∀ (i : Instr) (s t : State) (target : Option Addr) (installed : Bool), (∀ a12, i ≠ .jms a12) →
    exec i s = .next t →
    exec i { s with cfg := { s.cfg with trapTarget := target, trapInterceptor := installed } } =
      .next { t with cfg := { s.cfg with trapTarget := target, trapInterceptor := installed } }

/-- A call and then the return from it come back to the address after the call, at the depth before it,
with the return's immediate in A (44_control_flow.md R225, R226). -/
def Obligations.CallThenReturnComesBack : Prop :=
  ∀ (s t u : State) (a12 : Addr) (d : Nibble), s.depth.val < 3 → exec (.jms a12) s = .next t →
    exec (.bbl d) t = .next u →
    u.pc = s.pc + 2 ∧ u.depth = s.depth ∧ u.acc = d ∧ u.cy = s.cy ∧ u.x = s.x

/-- JMS at depth 3 raises StackOverflow, that is the fourth nested call: three nested calls from an empty
stack succeed, and the fourth raises it at its own address (60_exceptions.md R253). The hypothesis is
that no interceptor is installed. -/
def Obligations.FourthNestedCallOverflows : Prop :=
  (∀ (s : State) (a : Addr), s.cfg.trapInterceptor = false → s.depth.val = 3 →
    exec (.jms a) s = .next { s with run := .halted, reason := .stackOverflow }) ∧
  ∀ (s : State) (a b c d : Addr), s.cfg.trapInterceptor = false → s.depth = 0 → s.run = .fetch →
    ∃ s1 s2 s3, exec (.jms a) s = .next s1 ∧ exec (.jms b) s1 = .next s2 ∧
      exec (.jms c) s2 = .next s3 ∧ s3.run = .fetch ∧ s3.depth.val = 3 ∧
      s3.stack[0] = s.pc + 2 ∧ s3.stack[1] = a + 2 ∧ s3.stack[2] = b + 2 ∧ s3.pc = c ∧
      exec (.jms d) s3 = .next { s3 with run := .halted, reason := .stackOverflow }

/-- A loop `ISZ r, self` from x[r] = v runs 16 - v times and then falls through with x[r] = 0
(44_control_flow.md R224, corner cases). The loop stands where its target page is its own. -/
def Obligations.SkipLoopRunsSixteenMinusValueTimes : Prop :=
  ∀ (s : State) (r : Reg), s.run = .fetch → s.pc.toNat % 256 ≤ 253 →
    s.readPM s.pc = BitVec.ofNat 8 (0x70 + r.val) →
    (s.readPM (s.pc + 1)).toNat = s.pc.toNat % 256 →
    (∀ n < 16 - (s.getReg r).toNat, ∃ u, State.after n s = some u ∧ u.pc = s.pc ∧
      (u.getReg r).toNat = (s.getReg r).toNat + n) ∧
    ∃ t, State.after (16 - (s.getReg r).toNat) s = some t ∧ t.pc = s.pc + 2 ∧ t.getReg r = 0 ∧
      ∀ q, q ≠ r → t.getReg q = s.getReg q

/-- A JCN or ISZ that jumps lands in the page of its own first word, or in the following page (modulo
16) where that word is in the last two words of a page (70_reset_and_hazards.md R275); the same for a JIN
in the last word. -/
def Obligations.BranchesAtPageEndLandInNextPage : Prop :=
  ∀ (s t : State) (i : Instr), exec i s = .next t →
    (∀ p, i = .jin p → t.pc.toNat / 256 =
      (s.pc.toNat / 256 + if s.pc.toNat % 256 = 255 then 1 else 0) % 16) ∧
    (∀ r a8, i = .isz r a8 → (s.getReg r).toNat ≠ 15 → t.pc.toNat / 256 =
      (s.pc.toNat / 256 + if 254 ≤ s.pc.toNat % 256 then 1 else 0) % 16 ∧
      t.pc.toNat % 256 = a8.toNat) ∧
    ∀ c a8, i = .jcn c a8 → t.pc ≠ s.pc + 2 → t.pc.toNat / 256 =
      (s.pc.toNat / 256 + if 254 ≤ s.pc.toNat % 256 then 1 else 0) % 16 ∧
      t.pc.toNat % 256 = a8.toNat

/-! ### Memory interface -/

/-- SRC latches its pair, the even register as `sel` and the odd one as `off`; DCL selects the bank
A[2:0] (41_memory_interface.md R131, R132). -/
def Obligations.AddressSelectionResults : Prop :=
  ∀ s : State,
    (∀ (p : Pair) (hi lo : Reg), hi.val = 2 * p.val → lo.val = 2 * p.val + 1 →
      encode (.src p) = [BitVec.ofNat 8 (0x21 + 2 * p.val)] ∧
      ∃ t, exec (.src p) s = .next t ∧ t = { s with latch := t.latch, pc := s.pc + 1 } ∧
        t.sel = s.getReg hi ∧ t.off = s.getReg lo) ∧
    encode .dcl = [0xFD] ∧
      ∃ t, exec .dcl s = .next t ∧ t = { s with bank := t.bank, pc := s.pc + 1 } ∧
        t.bank.toNat = s.acc.toNat % 8

/-- WRM stores A in the data nibble at (bank, sel, off) and changes no other nibble; RDM loads it
(41_memory_interface.md R133, R134). -/
def Obligations.DataMemoryTransferResults : Prop :=
  ∀ s : State,
    (encode .wrm = [0xE0] ∧
      ∃ t, exec .wrm s = .next t ∧ t = { s with dm := t.dm, pc := s.pc + 1 } ∧
        ∀ b e o, t.readDM b e o = if b = s.bank ∧ e = s.sel ∧ o = s.off then s.acc
          else s.readDM b e o) ∧
    encode .rdm = [0xE9] ∧
      exec .rdm s = .next { s with acc := s.readDM s.bank s.sel s.off, pc := s.pc + 1 }

/-- WR0 to WR3 store A in status nibble 0 to 3 of (bank, sel), whatever `off` is, and change no other
(41_memory_interface.md R135 to R138). -/
def Obligations.StatusWriteResults : Prop :=
  encode .wr0 = [0xE4] ∧ encode .wr1 = [0xE5] ∧ encode .wr2 = [0xE6] ∧ encode .wr3 = [0xE7] ∧
  ∀ (s : State) (i : Instr) (k : Fin 4),
    (i = .wr0 ∧ k = 0) ∨ (i = .wr1 ∧ k = 1) ∨ (i = .wr2 ∧ k = 2) ∨ (i = .wr3 ∧ k = 3) →
    ∃ t, exec i s = .next t ∧ t = { s with sm := t.sm, pc := s.pc + 1 } ∧
      ∀ b e j, t.readSM b e j = if b = s.bank ∧ e = s.sel ∧ j = k then s.acc else s.readSM b e j

/-- RD0 to RD3 load status nibble 0 to 3 of (bank, sel), whatever `off` is (41_memory_interface.md R139
to R142). -/
def Obligations.StatusReadResults : Prop :=
  encode .rd0 = [0xEC] ∧ encode .rd1 = [0xED] ∧ encode .rd2 = [0xEE] ∧ encode .rd3 = [0xEF] ∧
  ∀ (s : State) (i : Instr) (k : Fin 4),
    (i = .rd0 ∧ k = 0) ∨ (i = .rd1 ∧ k = 1) ∨ (i = .rd2 ∧ k = 2) ∨ (i = .rd3 ∧ k = 3) →
    exec i s = .next { s with acc := s.readSM s.bank s.sel k, pc := s.pc + 1 }

/-- WMP and WRR write their latches, RDR reads the configured input and not the latch, and WPM does
nothing (41_memory_interface.md R143 to R146). -/
def Obligations.PortResults : Prop :=
  ∀ s : State,
    (encode .wmp = [0xE1] ∧
      ∃ t, exec .wmp s = .next t ∧ t = { s with ramPort := t.ramPort, pc := s.pc + 1 } ∧
        ∀ b c, t.getRamPort b c =
          if b = s.bank ∧ c.toNat = s.sel.toNat / 4 then s.acc else s.getRamPort b c) ∧
    (encode .wrr = [0xE2] ∧
      ∃ t, exec .wrr s = .next t ∧ t = { s with romPort := t.romPort, pc := s.pc + 1 } ∧
        ∀ e, t.getRomPort e = if e = s.sel then s.acc else s.getRomPort e) ∧
    (encode .rdr = [0xEA] ∧
      ∃ t, exec .rdr s = .next t ∧ t = { s with acc := t.acc, pc := s.pc + 1 } ∧
        ∀ k : Fin 16, k.val = s.sel.toNat → t.acc = s.cfg.romInput[k.val]) ∧
    encode .wpm = [0xE3] ∧ exec .wpm s = .next { s with pc := s.pc + 1 }

/-- FIN loads its pair with the program word at {page of nxt, x[0], x[1]}, the address read before the
write, also for P0 (41_memory_interface.md R147). -/
def Obligations.FetchIndirectResult : Prop :=
  ∀ (s : State) (p : Pair) (a : Addr),
    a.toNat = (s.pc.toNat + 1) % 4096 / 256 * 256 + 16 * (s.getReg 0).toNat + (s.getReg 1).toNat →
    encode (.fin p) = [BitVec.ofNat 8 (0x30 + 2 * p.val)] ∧
    ∃ t, exec (.fin p) s = .next t ∧ t = { s with x := t.x, pc := s.pc + 1 } ∧
      ∀ q, (t.getReg q).toNat = if q.val = 2 * p.val then (s.readPM a).toNat / 16
        else if q.val = 2 * p.val + 1 then (s.readPM a).toNat % 16 else (s.getReg q).toNat

/-- The law of the latch: it stays as it is through any number of steps that execute no SRC, and a nibble
that WRM writes is read back by RDM after any number of steps that execute no SRC and no WRM in the same
bank, once the bank is the same again (41_memory_interface.md R148). -/
def Obligations.LatchedNibbleIsReadBack : Prop :=
  (∀ (n : Nat) (s u : State), State.after n s = some u →
    (∀ k < n, ∀ v, State.after k s = some v → ∀ p, v.fetchInstr ≠ .src p) → u.latch = s.latch) ∧
  ∀ (n : Nat) (s t u : State), exec .wrm s = .next t → State.after n t = some u →
    (∀ k < n, ∀ v, State.after k t = some v →
      (∀ p, v.fetchInstr ≠ .src p) ∧ ¬ (v.fetchInstr = .wrm ∧ v.bank = s.bank)) →
    u.bank = s.bank → ∃ v, exec .rdm u = .next v ∧ v.acc = s.acc

/-- Selecting a bank changes no stored nibble; a write in the other bank reaches that bank and, after
coming back, every nibble of the first bank reads as before (20_memory.md R56). -/
def Obligations.SwitchingBanksKeepsData : Prop :=
  ∀ (s s1 s2 s3 : State) (a : Nibble), exec .dcl s = .next s1 → s1.bank ≠ s.bank →
    exec .wrm s1 = .next s2 → a.toNat % 8 = s.bank.toNat →
    exec .dcl { s2 with acc := a } = .next s3 →
    (∀ b e o, s1.readDM b e o = s.readDM b e o) ∧ (∀ b e k, s1.readSM b e k = s.readSM b e k) ∧
      s3.bank = s.bank ∧ s3.readDM s1.bank s.sel s.off = s.acc ∧
      (∀ e o, s3.readDM s.bank e o = s.readDM s.bank e o) ∧
      ∀ b e k, s3.readSM b e k = s.readSM b e k

/-- Data nibbles share byte cells, two to a cell, the even offset high: a write of one leaves every other
nibble, its cell's other one included, and reads back as written; and two nibbles have the same cell
exactly where they have the same bank, `sel` and `off div 2` (20_memory.md R54). The cell is named by its
key `dataKey`, whose numbers are the model's own (log entry 7) and are not stated here. -/
def Obligations.NibbleWritesAreIndependent : Prop :=
  ∀ (s : State) (b b' : BitVec 3) (e e' o o' v : Nibble),
    (s.writeDM b e o v).readDM b' e' o' =
      (if b' = b ∧ e' = e ∧ o' = o then v else s.readDM b' e' o') ∧
    (s.readDM b e o).toNat =
      (if o.toNat % 2 = 0 then (s.dm.read (dataKey b e o)).toNat / 16
      else (s.dm.read (dataKey b e o)).toNat % 16) ∧
    (dataKey b e o = dataKey b' e' o' ↔ b = b' ∧ e = e' ∧ o.toNat / 2 = o'.toNat / 2)

/-! ### Terms that stand for no word -/

/-- A term of an unassigned row whose word lies outside the row is the same one-word no-op. No word
decodes to such a term, and the spec says nothing of it: the model's own choice (log entry 9). -/
def Obligations.IllFormedTermsAreNoOpsByChoice : Prop :=
  ∀ (i : Instr) (s : State), i.wellFormed = false →
    exec i s = .next { s with pc := s.pc + 1 } ∧ ∀ w1 w2 : Byte, decodeWords w1 w2 ≠ i
end

