-- ==== Sys2Proof/Laws/Flags.lean ====
section
/-! SUPPORT. What the ALU's computations give, as numbers. -/

namespace Sys2Proof.Machine

/-- A sum below 32 is its low four bits and its carry. -/
theorem narrow_value {t : Nat} (h : t < 32) :
    (narrow t).1.toNat + 16 * (narrow t).2.toNat = t := by
  by_cases ht : 15 < t
  · simp [narrow, ht]; omega
  · simp [narrow, ht]; omega

theorem bool_toNat_le (c : Bool) : c.toNat ≤ 1 := by cases c <;> decide

/-- The exact sum of an addition, below 32. -/
theorem addLaw_bound (a b : Nibble) (c : Bool) : a.toNat + b.toNat + c.toNat < 32 := by
  have := a.isLt
  have := b.isLt
  have := bool_toNat_le c
  omega

/-- The exact sum of a subtraction, below 32. -/
theorem subLaw_bound (a b : Nibble) (c : Bool) :
    a.toNat + (15 - b.toNat) + (1 - c.toNat) < 32 := by
  have := a.isLt
  omega

@[simp] theorem incrementLaw_toNat (v : Nibble) : (incrementLaw v).toNat = (v.toNat + 1) % 16 := by
  simp [incrementLaw]

@[simp] theorem complementLaw_toNat (a : Nibble) : (complementLaw a).toNat = 15 - a.toNat := by
  have := a.isLt
  simp only [complementLaw, BitVec.toNat_ofNat]
  omega

end Sys2Proof.Machine
end

