-- ==== Sys2Proof/Laws/Memory.lean ====
section
/-! SUPPORT. The laws of one memory: read after write, the frame of a write, and that a write keeps the
canonical form. The read laws hold of every list, canonical or not. -/

namespace Sys2Proof.Machine

variable {w : Nat}

@[simp] theorem Memory.read_nil (a : Nat) : Memory.read ([] : Memory w) a = 0#w := rfl

theorem Memory.read_cons (k : Nat) (v : BitVec w) (m : Memory w) (a : Nat) :
    Memory.read ((k, v) :: m) a = if a < k then 0#w else if a = k then v else Memory.read m a := rfl

/-- The entries above `a` read as the memory does above `a`, and as 0 up to it. -/
theorem Memory.read_above (m : Memory w) (a b : Nat) :
    (m.above a).read b = if b ≤ a then 0#w else m.read b := by
  induction m with
  | nil => simp [Memory.above]
  | cons c m ih =>
    obtain ⟨k, x⟩ := c
    by_cases h1 : a < k
    · by_cases h2 : b ≤ a
      · simp [Memory.above, Memory.read_cons, h1, h2, Nat.lt_of_le_of_lt h2 h1]
      · simp [Memory.above, h1, h2]
    · by_cases h2 : b ≤ a
      · simp [Memory.above, h1, h2, ih]
      · have h3 : ¬ b < k := by omega
        have h4 : b ≠ k := by omega
        simp [Memory.above, Memory.read_cons, h1, h2, ih, h3, h4]

/-- The one statement of what a write does to every read. -/
theorem Memory.read_write (m : Memory w) (a b : Nat) (v : BitVec w) :
    (m.write a v).read b = if b = a then v else m.read b := by
  induction m with
  | nil =>
    by_cases hv : v = 0#w <;> by_cases hb : b = a <;> simp [Memory.write, Memory.read_cons, hv, hb]
  | cons c m ih =>
    obtain ⟨k, x⟩ := c
    simp only [Memory.write]
    split
    · split
      · by_cases hb : b = a
        · simp [Memory.read_cons, *]
        · simp [hb]
      · simp only [Memory.read_cons]
        split_ifs <;> first | rfl | omega
    · split
      · subst k
        split
        · simp only [Memory.read_above, Memory.read_cons]
          split_ifs <;> first | rfl | omega | simp [*]
        · simp only [Memory.read_cons]
          split_ifs <;> first | rfl | omega
      · simp only [Memory.read_cons, ih]
        split_ifs <;> first | rfl | omega

/-- Writing an address and reading it back gives the value written. -/
@[simp] theorem Memory.read_write_self (m : Memory w) (a : Nat) (v : BitVec w) :
    (m.write a v).read a = v := by simp [Memory.read_write]

/-- A write leaves every other address as it was. -/
theorem Memory.read_write_of_ne (m : Memory w) {a b : Nat} (v : BitVec w) (h : b ≠ a) :
    (m.write a v).read b = m.read b := by simp [Memory.read_write, h]

theorem Memory.wfFrom_cons (bound lo k : Nat) (v : BitVec w) (m : Memory w) :
    Memory.wfFrom bound lo ((k, v) :: m) = true ↔
      lo ≤ k ∧ k < bound ∧ v ≠ 0#w ∧ Memory.wfFrom bound (k + 1) m = true := by
  simp [Memory.wfFrom, and_assoc]

/-- A lower starting address asks for less. -/
theorem Memory.wfFrom_mono {bound lo lo' : Nat} (m : Memory w) (h : lo' ≤ lo)
    (hm : Memory.wfFrom bound lo m = true) : Memory.wfFrom bound lo' m = true := by
  cases m with
  | nil => rfl
  | cons c m =>
    obtain ⟨k, x⟩ := c
    rw [Memory.wfFrom_cons] at hm ⊢
    exact ⟨by omega, hm.2⟩

theorem Memory.wfFrom_above {bound lo a : Nat} (m : Memory w)
    (hm : Memory.wfFrom bound lo m = true) : Memory.wfFrom bound lo (m.above a) = true := by
  induction m generalizing lo with
  | nil => rfl
  | cons c m ih =>
    obtain ⟨k, x⟩ := c
    simp only [Memory.above]
    split
    · exact hm
    · rw [Memory.wfFrom_cons] at hm
      exact Memory.wfFrom_mono _ (by omega) (ih hm.2.2.2)

theorem Memory.wfFrom_write {bound lo a : Nat} (m : Memory w) (v : BitVec w) (ha : a < bound)
    (hlo : lo ≤ a) (hm : Memory.wfFrom bound lo m = true) :
    Memory.wfFrom bound lo (m.write a v) = true := by
  induction m generalizing lo with
  | nil =>
    by_cases hv : v = 0#w
    · simp [Memory.write, hv, Memory.wfFrom]
    · simp only [Memory.write, hv, if_false, Memory.wfFrom_cons]
      exact ⟨hlo, ha, hv, rfl⟩
  | cons c m ih =>
    obtain ⟨k, x⟩ := c
    have h := (Memory.wfFrom_cons _ _ _ _ _).1 hm
    simp only [Memory.write]
    split
    · split
      · exact hm
      · rw [Memory.wfFrom_cons]
        exact ⟨hlo, ha, by assumption, (Memory.wfFrom_cons _ _ _ _ _).2 ⟨by omega, h.2⟩⟩
    · split
      · split
        · exact Memory.wfFrom_above _ (Memory.wfFrom_mono _ (by omega) h.2.2.2)
        · rw [Memory.wfFrom_cons]
          exact ⟨hlo, ha, by assumption, by subst k; exact h.2.2.2⟩
      · rw [Memory.wfFrom_cons]
        exact ⟨h.1, h.2.1, h.2.2.1, ih (by omega) h.2.2.2⟩

/-- A write inside the address space keeps the canonical form. -/
theorem Memory.wf_write {bound a : Nat} (m : Memory w) (v : BitVec w) (ha : a < bound)
    (hm : m.wf bound = true) : (m.write a v).wf bound = true :=
  Memory.wfFrom_write m v ha (Nat.zero_le _) hm

@[simp] theorem Memory.wf_nil (bound : Nat) : Memory.wf bound ([] : Memory w) = true := rfl

/-- A canonical memory lists nothing below its start. -/
theorem Memory.read_of_wfFrom_lt {bound lo a : Nat} (m : Memory w)
    (hm : Memory.wfFrom bound lo m = true) (h : a < lo) : m.read a = 0#w := by
  cases m with
  | nil => rfl
  | cons c m =>
    obtain ⟨k, x⟩ := c
    rw [Memory.wfFrom_cons] at hm
    have : a < k := by omega
    simp [Memory.read_cons, this]

/-- Two canonical memories that read the same everywhere are the same list. -/
theorem Memory.wfFrom_ext {bound lo : Nat} (m n : Memory w) (hm : Memory.wfFrom bound lo m = true)
    (hn : Memory.wfFrom bound lo n = true) (h : ∀ a, m.read a = n.read a) : m = n := by
  induction m generalizing n lo with
  | nil =>
    cases n with
    | nil => rfl
    | cons d n =>
      obtain ⟨j, y⟩ := d
      have hd := (Memory.wfFrom_cons _ _ _ _ _).1 hn
      exact absurd (by simpa [Memory.read_cons] using (h j).symm) hd.2.2.1
  | cons c m ih =>
    obtain ⟨k, x⟩ := c
    have hc := (Memory.wfFrom_cons _ _ _ _ _).1 hm
    cases n with
    | nil => exact absurd (by simpa [Memory.read_cons] using h k) hc.2.2.1
    | cons d n =>
      obtain ⟨j, y⟩ := d
      have hd := (Memory.wfFrom_cons _ _ _ _ _).1 hn
      have hkj : k = j := by
        rcases Nat.lt_trichotomy k j with hlt | heq | hgt
        · exact absurd (by simpa [Memory.read_cons, hlt] using h k) hc.2.2.1
        · exact heq
        · exact absurd (by simpa [Memory.read_cons, hgt] using (h j).symm) hd.2.2.1
      subst hkj
      have hxy : x = y := by simpa [Memory.read_cons] using h k
      subst hxy
      congr 1
      refine ih n hc.2.2.2 hd.2.2.2 fun a => ?_
      by_cases ha : a < k + 1
      · rw [Memory.read_of_wfFrom_lt m hc.2.2.2 ha, Memory.read_of_wfFrom_lt n hd.2.2.2 ha]
      · have h1 : ¬ a < k := by omega
        have h2 : a ≠ k := by omega
        simpa [Memory.read_cons, h1, h2] using h a

end Sys2Proof.Machine
end

