-- ==== Sys2Proof/Laws/Host.lean ====
section
/-! SUPPORT. What a loaded image reads as. -/

namespace Sys2Proof.Machine

/-- Address N holds byte N of the image from `a` on, and 0 elsewhere (20_memory.md R51). -/
theorem imageCells_read (a n : Nat) (l : List Byte) :
    (imageCells a l).read n = if n < a then 0#8 else l.getD (n - a) 0#8 := by
  induction l generalizing a with
  | nil => simp [imageCells]
  | cons b bs ih =>
    by_cases hb : b = 0#8
    · simp only [imageCells, hb, if_true, ih]
      rcases Nat.lt_trichotomy n a with h | h | h
      · simp [h, Nat.lt_succ_of_lt h]
      · subst h; simp
      · obtain ⟨k, rfl⟩ : ∃ k, n = a + 1 + k := ⟨n - (a + 1), by omega⟩
        have h1 : ¬ a + 1 + k < a + 1 := by omega
        have h2 : ¬ a + 1 + k < a := by omega
        have h3 : a + 1 + k - a = k + 1 := by omega
        rw [if_neg h1, if_neg h2, h3, List.getD_cons_succ]
        congr 1
        omega
    · simp only [imageCells, hb, if_false, Memory.read_cons, ih]
      rcases Nat.lt_trichotomy n a with h | h | h
      · simp [h]
      · subst h; simp
      · obtain ⟨k, rfl⟩ : ∃ k, n = a + 1 + k := ⟨n - (a + 1), by omega⟩
        have h2 : ¬ a + 1 + k < a := by omega
        have h3 : a + 1 + k - a = k + 1 := by omega
        have h1 : ¬ a + 1 + k < a + 1 := by omega
        have h4 : a + 1 + k ≠ a := by omega
        rw [if_neg h2, if_neg h4, if_neg h1, if_neg h2, h3, List.getD_cons_succ]
        congr 1
        omega

/-- An image inside the address space is canonical. -/
theorem imageCells_wfFrom {bound : Nat} (a : Nat) (l : List Byte) (h : a + l.length ≤ bound) :
    Memory.wfFrom bound a (imageCells a l) = true := by
  induction l generalizing a with
  | nil => rfl
  | cons b bs ih =>
    simp only [List.length_cons] at h
    have ih' := ih (a + 1) (by omega)
    by_cases hb : b = 0#8
    · simp only [imageCells, hb, if_true]
      exact Memory.wfFrom_mono _ (by omega) ih'
    · simp only [imageCells, hb, if_false, Memory.wfFrom_cons]
      exact ⟨le_refl _, by omega, hb, ih'⟩

end Sys2Proof.Machine
end

