-- ==== Sys2Proof/Laws/Ops.lean ====
section
/-! SUPPORT. For each shared operation, once, everything it does. -/

namespace Sys2Proof.Machine

/-! ### Bit fields -/

@[simp] theorem highNibble_toNat (v : Byte) : (highNibble v).toNat = v.toNat / 16 := by
  have := v.isLt
  simp only [highNibble, BitVec.extractLsb'_toNat, Nat.shiftRight_eq_div_pow]
  omega

@[simp] theorem lowNibble_toNat (v : Byte) : (lowNibble v).toNat = v.toNat % 16 := by
  simp [lowNibble]

@[simp] theorem highNibble_append (a b : Nibble) : highNibble (a ++ b) = a := by
  apply BitVec.eq_of_toNat_eq
  have := a.isLt
  have := b.isLt
  rw [highNibble_toNat, BitVec.toNat_append, Nat.shiftLeft_eq, ← Nat.shiftLeft_eq,
    ← Nat.shiftLeft_add_eq_or_of_lt (by omega), Nat.shiftLeft_eq]
  omega

@[simp] theorem lowNibble_append (a b : Nibble) : lowNibble (a ++ b) = b := by
  apply BitVec.eq_of_toNat_eq
  have := b.isLt
  rw [lowNibble_toNat, BitVec.toNat_append, ← Nat.shiftLeft_add_eq_or_of_lt (by omega),
    Nat.shiftLeft_eq]
  omega

/-- A byte is its two nibbles, the more significant first. -/
@[simp] theorem highNibble_append_lowNibble (v : Byte) : highNibble v ++ lowNibble v = v := by
  apply BitVec.eq_of_toNat_eq
  have h := (lowNibble v).isLt
  rw [BitVec.toNat_append, ← Nat.shiftLeft_add_eq_or_of_lt h, Nat.shiftLeft_eq, highNibble_toNat,
    lowNibble_toNat]
  omega

/-- The page of `nxt` with the low eight bits replaced, as a number (44_control_flow.md R220). -/
theorem pageTarget_toNat (nxt : Addr) (a8 : Byte) :
    (pageTarget nxt a8).toNat = nxt.toNat / 256 * 256 + a8.toNat := by
  have h := a8.isLt
  have h' := nxt.isLt
  rw [pageTarget, BitVec.toNat_append, ← Nat.shiftLeft_add_eq_or_of_lt h, Nat.shiftLeft_eq,
    BitVec.extractLsb'_toNat, Nat.shiftRight_eq_div_pow]
  omega

/-- The two parts of a 12-bit address, more significant first, as a number (20_memory.md R57). -/
theorem addr_append_toNat (h : Nibble) (l : Byte) :
    BitVec.toNat (w := 12) (h ++ l) = h.toNat * 256 + l.toNat := by
  have := l.isLt
  rw [BitVec.toNat_append, ← Nat.shiftLeft_add_eq_or_of_lt l.isLt, Nat.shiftLeft_eq]

/-- The high four bits of an address built from its parts. -/
theorem extract_high_append (h : Nibble) (l : Byte) :
    BitVec.extractLsb' (n := 12) 8 4 (h ++ l) = h := by
  apply BitVec.eq_of_toNat_eq
  have := h.isLt
  have := l.isLt
  rw [BitVec.extractLsb'_toNat, addr_append_toNat, Nat.shiftRight_eq_div_pow]
  omega

/-- The low eight bits of an address built from its parts. -/
theorem extract_low_append (h : Nibble) (l : Byte) :
    BitVec.extractLsb' (n := 12) 0 8 (h ++ l) = l := by
  apply BitVec.eq_of_toNat_eq
  have := l.isLt
  rw [BitVec.extractLsb'_toNat, addr_append_toNat, Nat.shiftRight_eq_div_pow]
  omega

/-- An address is its high four bits and its low eight. -/
theorem append_extract (a : Addr) : (a.extractLsb' 8 4 ++ a.extractLsb' 0 8 : Addr) = a := by
  apply BitVec.eq_of_toNat_eq
  have := a.isLt
  rw [addr_append_toNat, BitVec.extractLsb'_toNat, BitVec.extractLsb'_toNat,
    Nat.shiftRight_eq_div_pow, Nat.shiftRight_eq_div_pow]
  omega

/-! ### General registers and pairs -/

@[simp] theorem pairHigh_val (p : Pair) : (pairHigh p).val = 2 * p.val := rfl

@[simp] theorem pairLow_val (p : Pair) : (pairLow p).val = 2 * p.val + 1 := rfl

theorem pairHigh_ne_pairLow (p q : Pair) : pairHigh p ≠ pairLow q := by
  intro h
  have := congrArg Fin.val h
  simp only [pairHigh_val, pairLow_val] at this
  omega

/-- Writing a register changes it and no other (10_state.md R20). -/
theorem State.getReg_setReg (s : State) (r q : Reg) (v : Nibble) :
    (s.setReg r v).getReg q = if q = r then v else s.getReg q := by
  simp only [State.getReg, State.setReg, Vector.getElem_set, Fin.ext_iff]
  split_ifs <;> first | rfl | omega

@[simp] theorem State.getReg_setReg_self (s : State) (r : Reg) (v : Nibble) :
    (s.setReg r v).getReg r = v := by simp [State.getReg_setReg]

theorem State.getReg_setReg_of_ne (s : State) {r q : Reg} (v : Nibble) (h : q ≠ r) :
    (s.setReg r v).getReg q = s.getReg q := by simp [State.getReg_setReg, h]

/-- Writing a pair writes its even register with bits [7:4] and its odd register with bits [3:0], and
no other register (00_scope.md R9). -/
theorem State.getReg_setPair (s : State) (p : Pair) (w : Byte) (q : Reg) :
    (s.setPair p w).getReg q = if q = pairLow p then lowNibble w
      else if q = pairHigh p then highNibble w else s.getReg q := by
  simp only [State.setPair, State.getReg_setReg]

@[simp] theorem State.getPair_setPair_self (s : State) (p : Pair) (w : Byte) :
    (s.setPair p w).getPair p = w := by
  simp [State.getPair, State.getReg_setPair, pairHigh_ne_pairLow]

/-- Two register files that read the same are the same. -/
theorem State.x_ext {s t : State} (h : ∀ r, s.getReg r = t.getReg r) : s.x = t.x := by
  apply Vector.ext
  intro i hi
  exact h ⟨i, hi⟩

theorem State.getPair_toNat (s : State) (p : Pair) :
    (s.getPair p).toNat = (s.getReg (pairHigh p)).toNat * 16 + (s.getReg (pairLow p)).toNat := by
  rw [State.getPair, BitVec.toNat_append, ← Nat.shiftLeft_add_eq_or_of_lt (BitVec.isLt _),
    Nat.shiftLeft_eq]

/-! ### Program counter -/

/-- The next-sequential address wraps modulo 4096 (10_state.md R27). -/
theorem State.nxt_toNat (s : State) (n : Nat) : (s.nxt n).toNat = (s.pc.toNat + n) % 4096 := by
  simp [State.nxt, BitVec.toNat_add]

/-! ### Call stack -/

/-- A push on a stack with room, and only there (10_state.md R29). -/
theorem State.push_eq_some {s t : State} {v : Addr} (h : s.push v = some t) :
    ∃ hd : s.depth.val < 3, t = { s with stack := s.stack.set s.depth.val v,
                                         depth := ⟨s.depth.val + 1, by omega⟩ } := by
  unfold State.push at h
  split at h
  · rename_i hd
    exact ⟨hd, (Option.some.inj h).symm⟩
  · cases h

theorem State.push_eq_none {s : State} {v : Addr} : s.push v = none ↔ s.depth.val = 3 := by
  unfold State.push
  split
  · simp only [reduceCtorEq, false_iff]; omega
  · simp only [true_iff]; omega

/-- A pop of a stack with an entry, and only there (10_state.md R29). -/
theorem State.pop_eq_some {s t : State} {v : Addr} (h : s.pop = some (v, t)) :
    ∃ hd : 0 < s.depth.val, v = s.stack[s.depth.val - 1] ∧
      t = { s with depth := ⟨s.depth.val - 1, by omega⟩ } := by
  unfold State.pop at h
  split at h
  · rename_i hd
    obtain ⟨rfl, rfl⟩ := Prod.mk.inj (Option.some.inj h)
    exact ⟨hd, rfl, rfl⟩
  · cases h

theorem State.pop_eq_none {s : State} : s.pop = none ↔ s.depth.val = 0 := by
  unfold State.pop
  split
  · simp only [reduceCtorEq, false_iff]; omega
  · simp only [true_iff]; omega

/-! ### Data memory -/

theorem dataKey_lt (bank : BitVec 3) (sel off : Nibble) : dataKey bank sel off < dataCells := by
  have := bank.isLt
  have := sel.isLt
  have := off.isLt
  simp only [dataKey, dataCells]
  omega

/-- Two nibbles share a byte cell exactly where they are a pair of one sub-register (20_memory.md R54). -/
theorem dataKey_eq_iff (b b' : BitVec 3) (e e' o o' : Nibble) :
    dataKey b e o = dataKey b' e' o' ↔ b = b' ∧ e = e' ∧ o.toNat / 2 = o'.toNat / 2 := by
  have h1 := e.isLt
  have h2 := e'.isLt
  have h3 := o.isLt
  have h4 := o'.isLt
  simp only [dataKey, ← BitVec.toNat_inj]
  omega

theorem cellNibble_setCellNibble (cell : Byte) (o o' v : Nibble) :
    cellNibble (setCellNibble cell o v) o' =
      if o.toNat % 2 = o'.toNat % 2 then v else cellNibble cell o' := by
  unfold cellNibble setCellNibble
  split_ifs <;> first | rfl | omega | simp

/-- Writing a data nibble changes it and no other nibble, its cell's other nibble included
(20_memory.md R54). -/
theorem State.readDM_writeDM (s : State) (b b' : BitVec 3) (e e' o o' v : Nibble) :
    (s.writeDM b e o v).readDM b' e' o' =
      if b' = b ∧ e' = e ∧ o' = o then v else s.readDM b' e' o' := by
  simp only [State.readDM, State.writeDM, Memory.read_write]
  by_cases hk : dataKey b' e' o' = dataKey b e o
  · obtain ⟨hb, he, ho⟩ := (dataKey_eq_iff _ _ _ _ _ _).1 hk
    subst hb he
    rw [if_pos hk, cellNibble_setCellNibble]
    have hpar : o.toNat % 2 = o'.toNat % 2 ↔ o' = o := by
      rw [← BitVec.toNat_inj]
      omega
    by_cases hoo : o' = o
    · simp [hoo]
    · simp only [hpar, hoo, if_false, and_false, hk]
  · rw [if_neg hk, if_neg]
    rintro ⟨rfl, rfl, rfl⟩
    exact hk rfl

theorem State.writeDM_dm_wf {s : State} (b : BitVec 3) (e o v : Nibble)
    (h : s.dm.wf dataCells = true) : (s.writeDM b e o v).dm.wf dataCells = true :=
  Memory.wf_write _ _ (dataKey_lt b e o) h

/-! ### Status memory -/

theorem statusKey_lt (bank : BitVec 3) (sel : Nibble) (idx : Fin 4) :
    statusKey bank sel idx < statusNibbles := by
  have := bank.isLt
  have := sel.isLt
  have := idx.isLt
  simp only [statusKey, statusNibbles]
  omega

theorem statusKey_eq_iff (b b' : BitVec 3) (e e' : Nibble) (i i' : Fin 4) :
    statusKey b e i = statusKey b' e' i' ↔ b = b' ∧ e = e' ∧ i = i' := by
  have h1 := e.isLt
  have h2 := e'.isLt
  have h3 := i.isLt
  have h4 := i'.isLt
  simp only [statusKey, ← BitVec.toNat_inj, Fin.ext_iff]
  omega

/-- Writing a status nibble changes it and no other (20_memory.md R55). -/
theorem State.readSM_writeSM (s : State) (b b' : BitVec 3) (e e' : Nibble) (i i' : Fin 4)
    (v : Nibble) :
    (s.writeSM b e i v).readSM b' e' i' =
      if b' = b ∧ e' = e ∧ i' = i then v else s.readSM b' e' i' := by
  simp only [State.readSM, State.writeSM, Memory.read_write, statusKey_eq_iff]

theorem State.writeSM_sm_wf {s : State} (b : BitVec 3) (e : Nibble) (i : Fin 4) (v : Nibble)
    (h : s.sm.wf statusNibbles = true) : (s.writeSM b e i v).sm.wf statusNibbles = true :=
  Memory.wf_write _ _ (statusKey_lt b e i) h

/-! ### Output ports -/

/-- Writing a RAM port latch changes it and no other (10_state.md R34). -/
theorem State.getRamPort_setRamPort (s : State) (b b' : BitVec 3) (c c' : BitVec 2) (v : Nibble) :
    (s.setRamPort b c v).getRamPort b' c' = if b' = b ∧ c' = c then v else s.getRamPort b' c' := by
  simp only [State.getRamPort, State.setRamPort, Vector.getElem_set]
  by_cases hb : b' = b
  · subst hb
    simp only [if_true, Vector.getElem_set, true_and, ← BitVec.toNat_inj, eq_comm]
  · have : ¬ b.toNat = b'.toNat := fun h => hb (BitVec.eq_of_toNat_eq h.symm)
    simp [hb, this]

/-- Writing a ROM port latch changes it and no other (10_state.md R34). -/
theorem State.getRomPort_setRomPort (s : State) (e e' v : Nibble) :
    (s.setRomPort e v).getRomPort e' = if e' = e then v else s.getRomPort e' := by
  simp only [State.getRomPort, State.setRomPort, Vector.getElem_set, ← BitVec.toNat_inj, eq_comm]

/-! ### Program memory -/

theorem addr_lt_progSize (a : Addr) : a.toNat < progSize := a.isLt

/-- Placing one word changes the word at its address and no other (20_memory.md R51). -/
theorem read_placeBytes_two (pm : Memory 8) (a b : Addr) (w1 w2 : Byte) :
    Memory.read (placeBytes pm a [w1, w2]) b.toNat =
      if b = a + 1 then w2 else if b = a then w1 else pm.read b.toNat := by
  simp only [placeBytes, Memory.read_write, ← BitVec.toNat_inj]

theorem placeBytes_wf (pm : Memory 8) (a : Addr) (l : List Byte) (h : pm.wf progSize = true) :
    (placeBytes pm a l).wf progSize = true := by
  induction l generalizing pm a with
  | nil => exact h
  | cons b bs ih => exact ih _ _ (Memory.wf_write _ _ (addr_lt_progSize a) h)

/-- The memories of the reset state are in canonical form. -/
theorem State.reset_memories_wf : State.reset.pm.wf progSize = true ∧
    State.reset.dm.wf dataCells = true ∧ State.reset.sm.wf statusNibbles = true := ⟨rfl, rfl, rfl⟩

end Sys2Proof.Machine
end

