-- ==== Sys2Proof/Laws/State.lean ====
section
/-! SUPPORT. One lemma per field, and per accessor, for each update of `State`: what the update writes
and what it leaves, so that no later proof unfolds a record update. -/

namespace Sys2Proof.Machine

variable (s : State)

/-! ### `State.setReg` -/

@[simp] theorem State.setReg_x (r : Reg) (v : Nibble) : (s.setReg r v).x = s.x.set r.val v := rfl
@[simp] theorem State.setReg_acc (r : Reg) (v : Nibble) : (s.setReg r v).acc = s.acc := rfl
@[simp] theorem State.setReg_cy (r : Reg) (v : Nibble) : (s.setReg r v).cy = s.cy := rfl
@[simp] theorem State.setReg_pc (r : Reg) (v : Nibble) : (s.setReg r v).pc = s.pc := rfl
@[simp] theorem State.setReg_stack (r : Reg) (v : Nibble) : (s.setReg r v).stack = s.stack := rfl
@[simp] theorem State.setReg_depth (r : Reg) (v : Nibble) : (s.setReg r v).depth = s.depth := rfl
@[simp] theorem State.setReg_latch (r : Reg) (v : Nibble) : (s.setReg r v).latch = s.latch := rfl
@[simp] theorem State.setReg_bank (r : Reg) (v : Nibble) : (s.setReg r v).bank = s.bank := rfl
@[simp] theorem State.setReg_run (r : Reg) (v : Nibble) : (s.setReg r v).run = s.run := rfl
@[simp] theorem State.setReg_reason (r : Reg) (v : Nibble) : (s.setReg r v).reason = s.reason := rfl
@[simp] theorem State.setReg_pm (r : Reg) (v : Nibble) : (s.setReg r v).pm = s.pm := rfl
@[simp] theorem State.setReg_dm (r : Reg) (v : Nibble) : (s.setReg r v).dm = s.dm := rfl
@[simp] theorem State.setReg_sm (r : Reg) (v : Nibble) : (s.setReg r v).sm = s.sm := rfl
@[simp] theorem State.setReg_ramPort (r : Reg) (v : Nibble) :
    (s.setReg r v).ramPort = s.ramPort := rfl
@[simp] theorem State.setReg_romPort (r : Reg) (v : Nibble) :
    (s.setReg r v).romPort = s.romPort := rfl
@[simp] theorem State.setReg_cfg (r : Reg) (v : Nibble) : (s.setReg r v).cfg = s.cfg := rfl
@[simp] theorem State.setReg_nxt (r : Reg) (v : Nibble) (k : Nat) :
    (s.setReg r v).nxt k = s.nxt k := rfl
@[simp] theorem State.setReg_sel (r : Reg) (v : Nibble) :
    (s.setReg r v).sel = s.sel := rfl
@[simp] theorem State.setReg_off (r : Reg) (v : Nibble) :
    (s.setReg r v).off = s.off := rfl
@[simp] theorem State.setReg_readPM (r : Reg) (v : Nibble) (k : Addr) :
    (s.setReg r v).readPM k = s.readPM k := rfl
@[simp] theorem State.setReg_readDM (r : Reg) (v : Nibble) (b' : BitVec 3) (e' o' : Nibble) :
    (s.setReg r v).readDM b' e' o' = s.readDM b' e' o' := rfl
@[simp] theorem State.setReg_readSM (r : Reg) (v : Nibble) (b' : BitVec 3) (e' : Nibble) (i' : Fin 4) :
    (s.setReg r v).readSM b' e' i' = s.readSM b' e' i' := rfl
@[simp] theorem State.setReg_getRamPort (r : Reg) (v : Nibble) (b' : BitVec 3) (c' : BitVec 2) :
    (s.setReg r v).getRamPort b' c' = s.getRamPort b' c' := rfl
@[simp] theorem State.setReg_getRomPort (r : Reg) (v : Nibble) (e' : Nibble) :
    (s.setReg r v).getRomPort e' = s.getRomPort e' := rfl
@[simp] theorem State.setReg_romInput (r : Reg) (v : Nibble) (e' : Nibble) :
    (s.setReg r v).romInput e' = s.romInput e' := rfl
@[simp] theorem State.setReg_trapped (r : Reg) (v : Nibble) (k : Addr) :
    (s.setReg r v).trapped k = s.trapped k := rfl
@[simp] theorem State.setReg_currentNibble (r : Reg) (v : Nibble) :
    (s.setReg r v).currentNibble = s.currentNibble := rfl

/-! ### `State.setPair` -/

@[simp] theorem State.setPair_acc (p : Pair) (w : Byte) : (s.setPair p w).acc = s.acc := rfl
@[simp] theorem State.setPair_cy (p : Pair) (w : Byte) : (s.setPair p w).cy = s.cy := rfl
@[simp] theorem State.setPair_pc (p : Pair) (w : Byte) : (s.setPair p w).pc = s.pc := rfl
@[simp] theorem State.setPair_stack (p : Pair) (w : Byte) : (s.setPair p w).stack = s.stack := rfl
@[simp] theorem State.setPair_depth (p : Pair) (w : Byte) : (s.setPair p w).depth = s.depth := rfl
@[simp] theorem State.setPair_latch (p : Pair) (w : Byte) : (s.setPair p w).latch = s.latch := rfl
@[simp] theorem State.setPair_bank (p : Pair) (w : Byte) : (s.setPair p w).bank = s.bank := rfl
@[simp] theorem State.setPair_run (p : Pair) (w : Byte) : (s.setPair p w).run = s.run := rfl
@[simp] theorem State.setPair_reason (p : Pair) (w : Byte) :
    (s.setPair p w).reason = s.reason := rfl
@[simp] theorem State.setPair_pm (p : Pair) (w : Byte) : (s.setPair p w).pm = s.pm := rfl
@[simp] theorem State.setPair_dm (p : Pair) (w : Byte) : (s.setPair p w).dm = s.dm := rfl
@[simp] theorem State.setPair_sm (p : Pair) (w : Byte) : (s.setPair p w).sm = s.sm := rfl
@[simp] theorem State.setPair_ramPort (p : Pair) (w : Byte) :
    (s.setPair p w).ramPort = s.ramPort := rfl
@[simp] theorem State.setPair_romPort (p : Pair) (w : Byte) :
    (s.setPair p w).romPort = s.romPort := rfl
@[simp] theorem State.setPair_cfg (p : Pair) (w : Byte) : (s.setPair p w).cfg = s.cfg := rfl
@[simp] theorem State.setPair_nxt (p : Pair) (w : Byte) (k : Nat) :
    (s.setPair p w).nxt k = s.nxt k := rfl
@[simp] theorem State.setPair_sel (p : Pair) (w : Byte) :
    (s.setPair p w).sel = s.sel := rfl
@[simp] theorem State.setPair_off (p : Pair) (w : Byte) :
    (s.setPair p w).off = s.off := rfl
@[simp] theorem State.setPair_readPM (p : Pair) (w : Byte) (k : Addr) :
    (s.setPair p w).readPM k = s.readPM k := rfl
@[simp] theorem State.setPair_readDM (p : Pair) (w : Byte) (b' : BitVec 3) (e' o' : Nibble) :
    (s.setPair p w).readDM b' e' o' = s.readDM b' e' o' := rfl
@[simp] theorem State.setPair_readSM (p : Pair) (w : Byte) (b' : BitVec 3) (e' : Nibble) (i' : Fin 4) :
    (s.setPair p w).readSM b' e' i' = s.readSM b' e' i' := rfl
@[simp] theorem State.setPair_getRamPort (p : Pair) (w : Byte) (b' : BitVec 3) (c' : BitVec 2) :
    (s.setPair p w).getRamPort b' c' = s.getRamPort b' c' := rfl
@[simp] theorem State.setPair_getRomPort (p : Pair) (w : Byte) (e' : Nibble) :
    (s.setPair p w).getRomPort e' = s.getRomPort e' := rfl
@[simp] theorem State.setPair_romInput (p : Pair) (w : Byte) (e' : Nibble) :
    (s.setPair p w).romInput e' = s.romInput e' := rfl
@[simp] theorem State.setPair_trapped (p : Pair) (w : Byte) (k : Addr) :
    (s.setPair p w).trapped k = s.trapped k := rfl
@[simp] theorem State.setPair_currentNibble (p : Pair) (w : Byte) :
    (s.setPair p w).currentNibble = s.currentNibble := rfl

/-! ### `State.setAcc` -/

@[simp] theorem State.setAcc_x (v : Nibble) : (s.setAcc v).x = s.x := rfl
@[simp] theorem State.setAcc_acc (v : Nibble) : (s.setAcc v).acc = v := rfl
@[simp] theorem State.setAcc_cy (v : Nibble) : (s.setAcc v).cy = s.cy := rfl
@[simp] theorem State.setAcc_pc (v : Nibble) : (s.setAcc v).pc = s.pc := rfl
@[simp] theorem State.setAcc_stack (v : Nibble) : (s.setAcc v).stack = s.stack := rfl
@[simp] theorem State.setAcc_depth (v : Nibble) : (s.setAcc v).depth = s.depth := rfl
@[simp] theorem State.setAcc_latch (v : Nibble) : (s.setAcc v).latch = s.latch := rfl
@[simp] theorem State.setAcc_bank (v : Nibble) : (s.setAcc v).bank = s.bank := rfl
@[simp] theorem State.setAcc_run (v : Nibble) : (s.setAcc v).run = s.run := rfl
@[simp] theorem State.setAcc_reason (v : Nibble) : (s.setAcc v).reason = s.reason := rfl
@[simp] theorem State.setAcc_pm (v : Nibble) : (s.setAcc v).pm = s.pm := rfl
@[simp] theorem State.setAcc_dm (v : Nibble) : (s.setAcc v).dm = s.dm := rfl
@[simp] theorem State.setAcc_sm (v : Nibble) : (s.setAcc v).sm = s.sm := rfl
@[simp] theorem State.setAcc_ramPort (v : Nibble) : (s.setAcc v).ramPort = s.ramPort := rfl
@[simp] theorem State.setAcc_romPort (v : Nibble) : (s.setAcc v).romPort = s.romPort := rfl
@[simp] theorem State.setAcc_cfg (v : Nibble) : (s.setAcc v).cfg = s.cfg := rfl
@[simp] theorem State.setAcc_getReg (v : Nibble) (q : Reg) :
    (s.setAcc v).getReg q = s.getReg q := rfl
@[simp] theorem State.setAcc_getPair (v : Nibble) (q : Pair) :
    (s.setAcc v).getPair q = s.getPair q := rfl
@[simp] theorem State.setAcc_nxt (v : Nibble) (k : Nat) :
    (s.setAcc v).nxt k = s.nxt k := rfl
@[simp] theorem State.setAcc_sel (v : Nibble) :
    (s.setAcc v).sel = s.sel := rfl
@[simp] theorem State.setAcc_off (v : Nibble) :
    (s.setAcc v).off = s.off := rfl
@[simp] theorem State.setAcc_readPM (v : Nibble) (k : Addr) :
    (s.setAcc v).readPM k = s.readPM k := rfl
@[simp] theorem State.setAcc_readDM (v : Nibble) (b' : BitVec 3) (e' o' : Nibble) :
    (s.setAcc v).readDM b' e' o' = s.readDM b' e' o' := rfl
@[simp] theorem State.setAcc_readSM (v : Nibble) (b' : BitVec 3) (e' : Nibble) (i' : Fin 4) :
    (s.setAcc v).readSM b' e' i' = s.readSM b' e' i' := rfl
@[simp] theorem State.setAcc_getRamPort (v : Nibble) (b' : BitVec 3) (c' : BitVec 2) :
    (s.setAcc v).getRamPort b' c' = s.getRamPort b' c' := rfl
@[simp] theorem State.setAcc_getRomPort (v : Nibble) (e' : Nibble) :
    (s.setAcc v).getRomPort e' = s.getRomPort e' := rfl
@[simp] theorem State.setAcc_romInput (v : Nibble) (e' : Nibble) :
    (s.setAcc v).romInput e' = s.romInput e' := rfl
@[simp] theorem State.setAcc_trapped (v : Nibble) (k : Addr) :
    (s.setAcc v).trapped k = s.trapped k := rfl
@[simp] theorem State.setAcc_currentNibble (v : Nibble) :
    (s.setAcc v).currentNibble = s.currentNibble := rfl

/-! ### `State.setCy` -/

@[simp] theorem State.setCy_x (c : Bool) : (s.setCy c).x = s.x := rfl
@[simp] theorem State.setCy_acc (c : Bool) : (s.setCy c).acc = s.acc := rfl
@[simp] theorem State.setCy_cy (c : Bool) : (s.setCy c).cy = c := rfl
@[simp] theorem State.setCy_pc (c : Bool) : (s.setCy c).pc = s.pc := rfl
@[simp] theorem State.setCy_stack (c : Bool) : (s.setCy c).stack = s.stack := rfl
@[simp] theorem State.setCy_depth (c : Bool) : (s.setCy c).depth = s.depth := rfl
@[simp] theorem State.setCy_latch (c : Bool) : (s.setCy c).latch = s.latch := rfl
@[simp] theorem State.setCy_bank (c : Bool) : (s.setCy c).bank = s.bank := rfl
@[simp] theorem State.setCy_run (c : Bool) : (s.setCy c).run = s.run := rfl
@[simp] theorem State.setCy_reason (c : Bool) : (s.setCy c).reason = s.reason := rfl
@[simp] theorem State.setCy_pm (c : Bool) : (s.setCy c).pm = s.pm := rfl
@[simp] theorem State.setCy_dm (c : Bool) : (s.setCy c).dm = s.dm := rfl
@[simp] theorem State.setCy_sm (c : Bool) : (s.setCy c).sm = s.sm := rfl
@[simp] theorem State.setCy_ramPort (c : Bool) : (s.setCy c).ramPort = s.ramPort := rfl
@[simp] theorem State.setCy_romPort (c : Bool) : (s.setCy c).romPort = s.romPort := rfl
@[simp] theorem State.setCy_cfg (c : Bool) : (s.setCy c).cfg = s.cfg := rfl
@[simp] theorem State.setCy_getReg (c : Bool) (q : Reg) :
    (s.setCy c).getReg q = s.getReg q := rfl
@[simp] theorem State.setCy_getPair (c : Bool) (q : Pair) :
    (s.setCy c).getPair q = s.getPair q := rfl
@[simp] theorem State.setCy_nxt (c : Bool) (k : Nat) :
    (s.setCy c).nxt k = s.nxt k := rfl
@[simp] theorem State.setCy_sel (c : Bool) :
    (s.setCy c).sel = s.sel := rfl
@[simp] theorem State.setCy_off (c : Bool) :
    (s.setCy c).off = s.off := rfl
@[simp] theorem State.setCy_readPM (c : Bool) (k : Addr) :
    (s.setCy c).readPM k = s.readPM k := rfl
@[simp] theorem State.setCy_readDM (c : Bool) (b' : BitVec 3) (e' o' : Nibble) :
    (s.setCy c).readDM b' e' o' = s.readDM b' e' o' := rfl
@[simp] theorem State.setCy_readSM (c : Bool) (b' : BitVec 3) (e' : Nibble) (i' : Fin 4) :
    (s.setCy c).readSM b' e' i' = s.readSM b' e' i' := rfl
@[simp] theorem State.setCy_getRamPort (c : Bool) (b' : BitVec 3) (c' : BitVec 2) :
    (s.setCy c).getRamPort b' c' = s.getRamPort b' c' := rfl
@[simp] theorem State.setCy_getRomPort (c : Bool) (e' : Nibble) :
    (s.setCy c).getRomPort e' = s.getRomPort e' := rfl
@[simp] theorem State.setCy_romInput (c : Bool) (e' : Nibble) :
    (s.setCy c).romInput e' = s.romInput e' := rfl
@[simp] theorem State.setCy_trapped (c : Bool) (k : Addr) :
    (s.setCy c).trapped k = s.trapped k := rfl
@[simp] theorem State.setCy_currentNibble (c : Bool) :
    (s.setCy c).currentNibble = s.currentNibble := rfl

/-! ### `State.setAccCy` -/

@[simp] theorem State.setAccCy_x (r : Nibble × Bool) : (s.setAccCy r).x = s.x := rfl
@[simp] theorem State.setAccCy_acc (r : Nibble × Bool) : (s.setAccCy r).acc = r.1 := rfl
@[simp] theorem State.setAccCy_cy (r : Nibble × Bool) : (s.setAccCy r).cy = r.2 := rfl
@[simp] theorem State.setAccCy_pc (r : Nibble × Bool) : (s.setAccCy r).pc = s.pc := rfl
@[simp] theorem State.setAccCy_stack (r : Nibble × Bool) : (s.setAccCy r).stack = s.stack := rfl
@[simp] theorem State.setAccCy_depth (r : Nibble × Bool) : (s.setAccCy r).depth = s.depth := rfl
@[simp] theorem State.setAccCy_latch (r : Nibble × Bool) : (s.setAccCy r).latch = s.latch := rfl
@[simp] theorem State.setAccCy_bank (r : Nibble × Bool) : (s.setAccCy r).bank = s.bank := rfl
@[simp] theorem State.setAccCy_run (r : Nibble × Bool) : (s.setAccCy r).run = s.run := rfl
@[simp] theorem State.setAccCy_reason (r : Nibble × Bool) : (s.setAccCy r).reason = s.reason := rfl
@[simp] theorem State.setAccCy_pm (r : Nibble × Bool) : (s.setAccCy r).pm = s.pm := rfl
@[simp] theorem State.setAccCy_dm (r : Nibble × Bool) : (s.setAccCy r).dm = s.dm := rfl
@[simp] theorem State.setAccCy_sm (r : Nibble × Bool) : (s.setAccCy r).sm = s.sm := rfl
@[simp] theorem State.setAccCy_ramPort (r : Nibble × Bool) :
    (s.setAccCy r).ramPort = s.ramPort := rfl
@[simp] theorem State.setAccCy_romPort (r : Nibble × Bool) :
    (s.setAccCy r).romPort = s.romPort := rfl
@[simp] theorem State.setAccCy_cfg (r : Nibble × Bool) : (s.setAccCy r).cfg = s.cfg := rfl
@[simp] theorem State.setAccCy_getReg (r : Nibble × Bool) (q : Reg) :
    (s.setAccCy r).getReg q = s.getReg q := rfl
@[simp] theorem State.setAccCy_getPair (r : Nibble × Bool) (q : Pair) :
    (s.setAccCy r).getPair q = s.getPair q := rfl
@[simp] theorem State.setAccCy_nxt (r : Nibble × Bool) (k : Nat) :
    (s.setAccCy r).nxt k = s.nxt k := rfl
@[simp] theorem State.setAccCy_sel (r : Nibble × Bool) :
    (s.setAccCy r).sel = s.sel := rfl
@[simp] theorem State.setAccCy_off (r : Nibble × Bool) :
    (s.setAccCy r).off = s.off := rfl
@[simp] theorem State.setAccCy_readPM (r : Nibble × Bool) (k : Addr) :
    (s.setAccCy r).readPM k = s.readPM k := rfl
@[simp] theorem State.setAccCy_readDM (r : Nibble × Bool) (b' : BitVec 3) (e' o' : Nibble) :
    (s.setAccCy r).readDM b' e' o' = s.readDM b' e' o' := rfl
@[simp] theorem State.setAccCy_readSM (r : Nibble × Bool) (b' : BitVec 3) (e' : Nibble) (i' : Fin 4) :
    (s.setAccCy r).readSM b' e' i' = s.readSM b' e' i' := rfl
@[simp] theorem State.setAccCy_getRamPort (r : Nibble × Bool) (b' : BitVec 3) (c' : BitVec 2) :
    (s.setAccCy r).getRamPort b' c' = s.getRamPort b' c' := rfl
@[simp] theorem State.setAccCy_getRomPort (r : Nibble × Bool) (e' : Nibble) :
    (s.setAccCy r).getRomPort e' = s.getRomPort e' := rfl
@[simp] theorem State.setAccCy_romInput (r : Nibble × Bool) (e' : Nibble) :
    (s.setAccCy r).romInput e' = s.romInput e' := rfl
@[simp] theorem State.setAccCy_trapped (r : Nibble × Bool) (k : Addr) :
    (s.setAccCy r).trapped k = s.trapped k := rfl
@[simp] theorem State.setAccCy_currentNibble (r : Nibble × Bool) :
    (s.setAccCy r).currentNibble = s.currentNibble := rfl

/-! ### `State.jump` -/

@[simp] theorem State.jump_x (a : Addr) : (s.jump a).x = s.x := rfl
@[simp] theorem State.jump_acc (a : Addr) : (s.jump a).acc = s.acc := rfl
@[simp] theorem State.jump_cy (a : Addr) : (s.jump a).cy = s.cy := rfl
@[simp] theorem State.jump_pc (a : Addr) : (s.jump a).pc = a := rfl
@[simp] theorem State.jump_stack (a : Addr) : (s.jump a).stack = s.stack := rfl
@[simp] theorem State.jump_depth (a : Addr) : (s.jump a).depth = s.depth := rfl
@[simp] theorem State.jump_latch (a : Addr) : (s.jump a).latch = s.latch := rfl
@[simp] theorem State.jump_bank (a : Addr) : (s.jump a).bank = s.bank := rfl
@[simp] theorem State.jump_run (a : Addr) : (s.jump a).run = s.run := rfl
@[simp] theorem State.jump_reason (a : Addr) : (s.jump a).reason = s.reason := rfl
@[simp] theorem State.jump_pm (a : Addr) : (s.jump a).pm = s.pm := rfl
@[simp] theorem State.jump_dm (a : Addr) : (s.jump a).dm = s.dm := rfl
@[simp] theorem State.jump_sm (a : Addr) : (s.jump a).sm = s.sm := rfl
@[simp] theorem State.jump_ramPort (a : Addr) : (s.jump a).ramPort = s.ramPort := rfl
@[simp] theorem State.jump_romPort (a : Addr) : (s.jump a).romPort = s.romPort := rfl
@[simp] theorem State.jump_cfg (a : Addr) : (s.jump a).cfg = s.cfg := rfl
@[simp] theorem State.jump_getReg (a : Addr) (q : Reg) :
    (s.jump a).getReg q = s.getReg q := rfl
@[simp] theorem State.jump_getPair (a : Addr) (q : Pair) :
    (s.jump a).getPair q = s.getPair q := rfl
@[simp] theorem State.jump_sel (a : Addr) :
    (s.jump a).sel = s.sel := rfl
@[simp] theorem State.jump_off (a : Addr) :
    (s.jump a).off = s.off := rfl
@[simp] theorem State.jump_readPM (a : Addr) (k : Addr) :
    (s.jump a).readPM k = s.readPM k := rfl
@[simp] theorem State.jump_readDM (a : Addr) (b' : BitVec 3) (e' o' : Nibble) :
    (s.jump a).readDM b' e' o' = s.readDM b' e' o' := rfl
@[simp] theorem State.jump_readSM (a : Addr) (b' : BitVec 3) (e' : Nibble) (i' : Fin 4) :
    (s.jump a).readSM b' e' i' = s.readSM b' e' i' := rfl
@[simp] theorem State.jump_getRamPort (a : Addr) (b' : BitVec 3) (c' : BitVec 2) :
    (s.jump a).getRamPort b' c' = s.getRamPort b' c' := rfl
@[simp] theorem State.jump_getRomPort (a : Addr) (e' : Nibble) :
    (s.jump a).getRomPort e' = s.getRomPort e' := rfl
@[simp] theorem State.jump_romInput (a : Addr) (e' : Nibble) :
    (s.jump a).romInput e' = s.romInput e' := rfl
@[simp] theorem State.jump_trapped (a : Addr) (k : Addr) :
    (s.jump a).trapped k = s.trapped k := rfl
@[simp] theorem State.jump_currentNibble (a : Addr) :
    (s.jump a).currentNibble = s.currentNibble := rfl

/-! ### `State.advance` -/

@[simp] theorem State.advance_x (n : Nat) : (s.advance n).x = s.x := rfl
@[simp] theorem State.advance_acc (n : Nat) : (s.advance n).acc = s.acc := rfl
@[simp] theorem State.advance_cy (n : Nat) : (s.advance n).cy = s.cy := rfl
@[simp] theorem State.advance_pc (n : Nat) : (s.advance n).pc = s.nxt n := rfl
@[simp] theorem State.advance_stack (n : Nat) : (s.advance n).stack = s.stack := rfl
@[simp] theorem State.advance_depth (n : Nat) : (s.advance n).depth = s.depth := rfl
@[simp] theorem State.advance_latch (n : Nat) : (s.advance n).latch = s.latch := rfl
@[simp] theorem State.advance_bank (n : Nat) : (s.advance n).bank = s.bank := rfl
@[simp] theorem State.advance_run (n : Nat) : (s.advance n).run = s.run := rfl
@[simp] theorem State.advance_reason (n : Nat) : (s.advance n).reason = s.reason := rfl
@[simp] theorem State.advance_pm (n : Nat) : (s.advance n).pm = s.pm := rfl
@[simp] theorem State.advance_dm (n : Nat) : (s.advance n).dm = s.dm := rfl
@[simp] theorem State.advance_sm (n : Nat) : (s.advance n).sm = s.sm := rfl
@[simp] theorem State.advance_ramPort (n : Nat) : (s.advance n).ramPort = s.ramPort := rfl
@[simp] theorem State.advance_romPort (n : Nat) : (s.advance n).romPort = s.romPort := rfl
@[simp] theorem State.advance_cfg (n : Nat) : (s.advance n).cfg = s.cfg := rfl
@[simp] theorem State.advance_getReg (n : Nat) (q : Reg) :
    (s.advance n).getReg q = s.getReg q := rfl
@[simp] theorem State.advance_getPair (n : Nat) (q : Pair) :
    (s.advance n).getPair q = s.getPair q := rfl
@[simp] theorem State.advance_sel (n : Nat) :
    (s.advance n).sel = s.sel := rfl
@[simp] theorem State.advance_off (n : Nat) :
    (s.advance n).off = s.off := rfl
@[simp] theorem State.advance_readPM (n : Nat) (k : Addr) :
    (s.advance n).readPM k = s.readPM k := rfl
@[simp] theorem State.advance_readDM (n : Nat) (b' : BitVec 3) (e' o' : Nibble) :
    (s.advance n).readDM b' e' o' = s.readDM b' e' o' := rfl
@[simp] theorem State.advance_readSM (n : Nat) (b' : BitVec 3) (e' : Nibble) (i' : Fin 4) :
    (s.advance n).readSM b' e' i' = s.readSM b' e' i' := rfl
@[simp] theorem State.advance_getRamPort (n : Nat) (b' : BitVec 3) (c' : BitVec 2) :
    (s.advance n).getRamPort b' c' = s.getRamPort b' c' := rfl
@[simp] theorem State.advance_getRomPort (n : Nat) (e' : Nibble) :
    (s.advance n).getRomPort e' = s.getRomPort e' := rfl
@[simp] theorem State.advance_romInput (n : Nat) (e' : Nibble) :
    (s.advance n).romInput e' = s.romInput e' := rfl
@[simp] theorem State.advance_trapped (n : Nat) (k : Addr) :
    (s.advance n).trapped k = s.trapped k := rfl
@[simp] theorem State.advance_currentNibble (n : Nat) :
    (s.advance n).currentNibble = s.currentNibble := rfl

/-! ### `State.setLatch` -/

@[simp] theorem State.setLatch_x (w : Byte) : (s.setLatch w).x = s.x := rfl
@[simp] theorem State.setLatch_acc (w : Byte) : (s.setLatch w).acc = s.acc := rfl
@[simp] theorem State.setLatch_cy (w : Byte) : (s.setLatch w).cy = s.cy := rfl
@[simp] theorem State.setLatch_pc (w : Byte) : (s.setLatch w).pc = s.pc := rfl
@[simp] theorem State.setLatch_stack (w : Byte) : (s.setLatch w).stack = s.stack := rfl
@[simp] theorem State.setLatch_depth (w : Byte) : (s.setLatch w).depth = s.depth := rfl
@[simp] theorem State.setLatch_latch (w : Byte) : (s.setLatch w).latch = w := rfl
@[simp] theorem State.setLatch_bank (w : Byte) : (s.setLatch w).bank = s.bank := rfl
@[simp] theorem State.setLatch_run (w : Byte) : (s.setLatch w).run = s.run := rfl
@[simp] theorem State.setLatch_reason (w : Byte) : (s.setLatch w).reason = s.reason := rfl
@[simp] theorem State.setLatch_pm (w : Byte) : (s.setLatch w).pm = s.pm := rfl
@[simp] theorem State.setLatch_dm (w : Byte) : (s.setLatch w).dm = s.dm := rfl
@[simp] theorem State.setLatch_sm (w : Byte) : (s.setLatch w).sm = s.sm := rfl
@[simp] theorem State.setLatch_ramPort (w : Byte) : (s.setLatch w).ramPort = s.ramPort := rfl
@[simp] theorem State.setLatch_romPort (w : Byte) : (s.setLatch w).romPort = s.romPort := rfl
@[simp] theorem State.setLatch_cfg (w : Byte) : (s.setLatch w).cfg = s.cfg := rfl
@[simp] theorem State.setLatch_getReg (w : Byte) (q : Reg) :
    (s.setLatch w).getReg q = s.getReg q := rfl
@[simp] theorem State.setLatch_getPair (w : Byte) (q : Pair) :
    (s.setLatch w).getPair q = s.getPair q := rfl
@[simp] theorem State.setLatch_nxt (w : Byte) (k : Nat) :
    (s.setLatch w).nxt k = s.nxt k := rfl
@[simp] theorem State.setLatch_readPM (w : Byte) (k : Addr) :
    (s.setLatch w).readPM k = s.readPM k := rfl
@[simp] theorem State.setLatch_readDM (w : Byte) (b' : BitVec 3) (e' o' : Nibble) :
    (s.setLatch w).readDM b' e' o' = s.readDM b' e' o' := rfl
@[simp] theorem State.setLatch_readSM (w : Byte) (b' : BitVec 3) (e' : Nibble) (i' : Fin 4) :
    (s.setLatch w).readSM b' e' i' = s.readSM b' e' i' := rfl
@[simp] theorem State.setLatch_getRamPort (w : Byte) (b' : BitVec 3) (c' : BitVec 2) :
    (s.setLatch w).getRamPort b' c' = s.getRamPort b' c' := rfl
@[simp] theorem State.setLatch_getRomPort (w : Byte) (e' : Nibble) :
    (s.setLatch w).getRomPort e' = s.getRomPort e' := rfl
@[simp] theorem State.setLatch_romInput (w : Byte) (e' : Nibble) :
    (s.setLatch w).romInput e' = s.romInput e' := rfl
@[simp] theorem State.setLatch_trapped (w : Byte) (k : Addr) :
    (s.setLatch w).trapped k = s.trapped k := rfl

/-! ### `State.setBank` -/

@[simp] theorem State.setBank_x (b : BitVec 3) : (s.setBank b).x = s.x := rfl
@[simp] theorem State.setBank_acc (b : BitVec 3) : (s.setBank b).acc = s.acc := rfl
@[simp] theorem State.setBank_cy (b : BitVec 3) : (s.setBank b).cy = s.cy := rfl
@[simp] theorem State.setBank_pc (b : BitVec 3) : (s.setBank b).pc = s.pc := rfl
@[simp] theorem State.setBank_stack (b : BitVec 3) : (s.setBank b).stack = s.stack := rfl
@[simp] theorem State.setBank_depth (b : BitVec 3) : (s.setBank b).depth = s.depth := rfl
@[simp] theorem State.setBank_latch (b : BitVec 3) : (s.setBank b).latch = s.latch := rfl
@[simp] theorem State.setBank_bank (b : BitVec 3) : (s.setBank b).bank = b := rfl
@[simp] theorem State.setBank_run (b : BitVec 3) : (s.setBank b).run = s.run := rfl
@[simp] theorem State.setBank_reason (b : BitVec 3) : (s.setBank b).reason = s.reason := rfl
@[simp] theorem State.setBank_pm (b : BitVec 3) : (s.setBank b).pm = s.pm := rfl
@[simp] theorem State.setBank_dm (b : BitVec 3) : (s.setBank b).dm = s.dm := rfl
@[simp] theorem State.setBank_sm (b : BitVec 3) : (s.setBank b).sm = s.sm := rfl
@[simp] theorem State.setBank_ramPort (b : BitVec 3) : (s.setBank b).ramPort = s.ramPort := rfl
@[simp] theorem State.setBank_romPort (b : BitVec 3) : (s.setBank b).romPort = s.romPort := rfl
@[simp] theorem State.setBank_cfg (b : BitVec 3) : (s.setBank b).cfg = s.cfg := rfl
@[simp] theorem State.setBank_getReg (b : BitVec 3) (q : Reg) :
    (s.setBank b).getReg q = s.getReg q := rfl
@[simp] theorem State.setBank_getPair (b : BitVec 3) (q : Pair) :
    (s.setBank b).getPair q = s.getPair q := rfl
@[simp] theorem State.setBank_nxt (b : BitVec 3) (k : Nat) :
    (s.setBank b).nxt k = s.nxt k := rfl
@[simp] theorem State.setBank_sel (b : BitVec 3) :
    (s.setBank b).sel = s.sel := rfl
@[simp] theorem State.setBank_off (b : BitVec 3) :
    (s.setBank b).off = s.off := rfl
@[simp] theorem State.setBank_readPM (b : BitVec 3) (k : Addr) :
    (s.setBank b).readPM k = s.readPM k := rfl
@[simp] theorem State.setBank_readDM (b : BitVec 3) (b' : BitVec 3) (e' o' : Nibble) :
    (s.setBank b).readDM b' e' o' = s.readDM b' e' o' := rfl
@[simp] theorem State.setBank_readSM (b : BitVec 3) (b' : BitVec 3) (e' : Nibble) (i' : Fin 4) :
    (s.setBank b).readSM b' e' i' = s.readSM b' e' i' := rfl
@[simp] theorem State.setBank_getRamPort (b : BitVec 3) (b' : BitVec 3) (c' : BitVec 2) :
    (s.setBank b).getRamPort b' c' = s.getRamPort b' c' := rfl
@[simp] theorem State.setBank_getRomPort (b : BitVec 3) (e' : Nibble) :
    (s.setBank b).getRomPort e' = s.getRomPort e' := rfl
@[simp] theorem State.setBank_romInput (b : BitVec 3) (e' : Nibble) :
    (s.setBank b).romInput e' = s.romInput e' := rfl
@[simp] theorem State.setBank_trapped (b : BitVec 3) (k : Addr) :
    (s.setBank b).trapped k = s.trapped k := rfl

/-! ### `State.writeDM` -/

@[simp] theorem State.writeDM_x (b : BitVec 3) (e o v : Nibble) : (s.writeDM b e o v).x = s.x := rfl
@[simp] theorem State.writeDM_acc (b : BitVec 3) (e o v : Nibble) :
    (s.writeDM b e o v).acc = s.acc := rfl
@[simp] theorem State.writeDM_cy (b : BitVec 3) (e o v : Nibble) :
    (s.writeDM b e o v).cy = s.cy := rfl
@[simp] theorem State.writeDM_pc (b : BitVec 3) (e o v : Nibble) :
    (s.writeDM b e o v).pc = s.pc := rfl
@[simp] theorem State.writeDM_stack (b : BitVec 3) (e o v : Nibble) :
    (s.writeDM b e o v).stack = s.stack := rfl
@[simp] theorem State.writeDM_depth (b : BitVec 3) (e o v : Nibble) :
    (s.writeDM b e o v).depth = s.depth := rfl
@[simp] theorem State.writeDM_latch (b : BitVec 3) (e o v : Nibble) :
    (s.writeDM b e o v).latch = s.latch := rfl
@[simp] theorem State.writeDM_bank (b : BitVec 3) (e o v : Nibble) :
    (s.writeDM b e o v).bank = s.bank := rfl
@[simp] theorem State.writeDM_run (b : BitVec 3) (e o v : Nibble) :
    (s.writeDM b e o v).run = s.run := rfl
@[simp] theorem State.writeDM_reason (b : BitVec 3) (e o v : Nibble) :
    (s.writeDM b e o v).reason = s.reason := rfl
@[simp] theorem State.writeDM_pm (b : BitVec 3) (e o v : Nibble) :
    (s.writeDM b e o v).pm = s.pm := rfl
@[simp] theorem State.writeDM_sm (b : BitVec 3) (e o v : Nibble) :
    (s.writeDM b e o v).sm = s.sm := rfl
@[simp] theorem State.writeDM_ramPort (b : BitVec 3) (e o v : Nibble) :
    (s.writeDM b e o v).ramPort = s.ramPort := rfl
@[simp] theorem State.writeDM_romPort (b : BitVec 3) (e o v : Nibble) :
    (s.writeDM b e o v).romPort = s.romPort := rfl
@[simp] theorem State.writeDM_cfg (b : BitVec 3) (e o v : Nibble) :
    (s.writeDM b e o v).cfg = s.cfg := rfl
@[simp] theorem State.writeDM_getReg (b : BitVec 3) (e o v : Nibble) (q : Reg) :
    (s.writeDM b e o v).getReg q = s.getReg q := rfl
@[simp] theorem State.writeDM_getPair (b : BitVec 3) (e o v : Nibble) (q : Pair) :
    (s.writeDM b e o v).getPair q = s.getPair q := rfl
@[simp] theorem State.writeDM_nxt (b : BitVec 3) (e o v : Nibble) (k : Nat) :
    (s.writeDM b e o v).nxt k = s.nxt k := rfl
@[simp] theorem State.writeDM_sel (b : BitVec 3) (e o v : Nibble) :
    (s.writeDM b e o v).sel = s.sel := rfl
@[simp] theorem State.writeDM_off (b : BitVec 3) (e o v : Nibble) :
    (s.writeDM b e o v).off = s.off := rfl
@[simp] theorem State.writeDM_readPM (b : BitVec 3) (e o v : Nibble) (k : Addr) :
    (s.writeDM b e o v).readPM k = s.readPM k := rfl
@[simp] theorem State.writeDM_readSM (b : BitVec 3) (e o v : Nibble) (b' : BitVec 3) (e' : Nibble) (i' : Fin 4) :
    (s.writeDM b e o v).readSM b' e' i' = s.readSM b' e' i' := rfl
@[simp] theorem State.writeDM_getRamPort (b : BitVec 3) (e o v : Nibble) (b' : BitVec 3) (c' : BitVec 2) :
    (s.writeDM b e o v).getRamPort b' c' = s.getRamPort b' c' := rfl
@[simp] theorem State.writeDM_getRomPort (b : BitVec 3) (e o v : Nibble) (e' : Nibble) :
    (s.writeDM b e o v).getRomPort e' = s.getRomPort e' := rfl
@[simp] theorem State.writeDM_romInput (b : BitVec 3) (e o v : Nibble) (e' : Nibble) :
    (s.writeDM b e o v).romInput e' = s.romInput e' := rfl
@[simp] theorem State.writeDM_trapped (b : BitVec 3) (e o v : Nibble) (k : Addr) :
    (s.writeDM b e o v).trapped k = s.trapped k := rfl

/-! ### `State.writeSM` -/

@[simp] theorem State.writeSM_x (b : BitVec 3) (e : Nibble) (i : Fin 4) (v : Nibble) :
    (s.writeSM b e i v).x = s.x := rfl
@[simp] theorem State.writeSM_acc (b : BitVec 3) (e : Nibble) (i : Fin 4) (v : Nibble) :
    (s.writeSM b e i v).acc = s.acc := rfl
@[simp] theorem State.writeSM_cy (b : BitVec 3) (e : Nibble) (i : Fin 4) (v : Nibble) :
    (s.writeSM b e i v).cy = s.cy := rfl
@[simp] theorem State.writeSM_pc (b : BitVec 3) (e : Nibble) (i : Fin 4) (v : Nibble) :
    (s.writeSM b e i v).pc = s.pc := rfl
@[simp] theorem State.writeSM_stack (b : BitVec 3) (e : Nibble) (i : Fin 4) (v : Nibble) :
    (s.writeSM b e i v).stack = s.stack := rfl
@[simp] theorem State.writeSM_depth (b : BitVec 3) (e : Nibble) (i : Fin 4) (v : Nibble) :
    (s.writeSM b e i v).depth = s.depth := rfl
@[simp] theorem State.writeSM_latch (b : BitVec 3) (e : Nibble) (i : Fin 4) (v : Nibble) :
    (s.writeSM b e i v).latch = s.latch := rfl
@[simp] theorem State.writeSM_bank (b : BitVec 3) (e : Nibble) (i : Fin 4) (v : Nibble) :
    (s.writeSM b e i v).bank = s.bank := rfl
@[simp] theorem State.writeSM_run (b : BitVec 3) (e : Nibble) (i : Fin 4) (v : Nibble) :
    (s.writeSM b e i v).run = s.run := rfl
@[simp] theorem State.writeSM_reason (b : BitVec 3) (e : Nibble) (i : Fin 4) (v : Nibble) :
    (s.writeSM b e i v).reason = s.reason := rfl
@[simp] theorem State.writeSM_pm (b : BitVec 3) (e : Nibble) (i : Fin 4) (v : Nibble) :
    (s.writeSM b e i v).pm = s.pm := rfl
@[simp] theorem State.writeSM_dm (b : BitVec 3) (e : Nibble) (i : Fin 4) (v : Nibble) :
    (s.writeSM b e i v).dm = s.dm := rfl
@[simp] theorem State.writeSM_sm (b : BitVec 3) (e : Nibble) (i : Fin 4) (v : Nibble) :
    (s.writeSM b e i v).sm = s.sm.write (statusKey b e i) v := rfl
@[simp] theorem State.writeSM_ramPort (b : BitVec 3) (e : Nibble) (i : Fin 4) (v : Nibble) :
    (s.writeSM b e i v).ramPort = s.ramPort := rfl
@[simp] theorem State.writeSM_romPort (b : BitVec 3) (e : Nibble) (i : Fin 4) (v : Nibble) :
    (s.writeSM b e i v).romPort = s.romPort := rfl
@[simp] theorem State.writeSM_cfg (b : BitVec 3) (e : Nibble) (i : Fin 4) (v : Nibble) :
    (s.writeSM b e i v).cfg = s.cfg := rfl
@[simp] theorem State.writeSM_getReg (b : BitVec 3) (e : Nibble) (i : Fin 4) (v : Nibble) (q : Reg) :
    (s.writeSM b e i v).getReg q = s.getReg q := rfl
@[simp] theorem State.writeSM_getPair (b : BitVec 3) (e : Nibble) (i : Fin 4) (v : Nibble) (q : Pair) :
    (s.writeSM b e i v).getPair q = s.getPair q := rfl
@[simp] theorem State.writeSM_nxt (b : BitVec 3) (e : Nibble) (i : Fin 4) (v : Nibble) (k : Nat) :
    (s.writeSM b e i v).nxt k = s.nxt k := rfl
@[simp] theorem State.writeSM_sel (b : BitVec 3) (e : Nibble) (i : Fin 4) (v : Nibble) :
    (s.writeSM b e i v).sel = s.sel := rfl
@[simp] theorem State.writeSM_off (b : BitVec 3) (e : Nibble) (i : Fin 4) (v : Nibble) :
    (s.writeSM b e i v).off = s.off := rfl
@[simp] theorem State.writeSM_readPM (b : BitVec 3) (e : Nibble) (i : Fin 4) (v : Nibble) (k : Addr) :
    (s.writeSM b e i v).readPM k = s.readPM k := rfl
@[simp] theorem State.writeSM_readDM (b : BitVec 3) (e : Nibble) (i : Fin 4) (v : Nibble) (b' : BitVec 3) (e' o' : Nibble) :
    (s.writeSM b e i v).readDM b' e' o' = s.readDM b' e' o' := rfl
@[simp] theorem State.writeSM_getRamPort (b : BitVec 3) (e : Nibble) (i : Fin 4) (v : Nibble) (b' : BitVec 3) (c' : BitVec 2) :
    (s.writeSM b e i v).getRamPort b' c' = s.getRamPort b' c' := rfl
@[simp] theorem State.writeSM_getRomPort (b : BitVec 3) (e : Nibble) (i : Fin 4) (v : Nibble) (e' : Nibble) :
    (s.writeSM b e i v).getRomPort e' = s.getRomPort e' := rfl
@[simp] theorem State.writeSM_romInput (b : BitVec 3) (e : Nibble) (i : Fin 4) (v : Nibble) (e' : Nibble) :
    (s.writeSM b e i v).romInput e' = s.romInput e' := rfl
@[simp] theorem State.writeSM_trapped (b : BitVec 3) (e : Nibble) (i : Fin 4) (v : Nibble) (k : Addr) :
    (s.writeSM b e i v).trapped k = s.trapped k := rfl
@[simp] theorem State.writeSM_currentNibble (b : BitVec 3) (e : Nibble) (i : Fin 4) (v : Nibble) :
    (s.writeSM b e i v).currentNibble = s.currentNibble := rfl

/-! ### `State.setRamPort` -/

@[simp] theorem State.setRamPort_x (b : BitVec 3) (c : BitVec 2) (v : Nibble) :
    (s.setRamPort b c v).x = s.x := rfl
@[simp] theorem State.setRamPort_acc (b : BitVec 3) (c : BitVec 2) (v : Nibble) :
    (s.setRamPort b c v).acc = s.acc := rfl
@[simp] theorem State.setRamPort_cy (b : BitVec 3) (c : BitVec 2) (v : Nibble) :
    (s.setRamPort b c v).cy = s.cy := rfl
@[simp] theorem State.setRamPort_pc (b : BitVec 3) (c : BitVec 2) (v : Nibble) :
    (s.setRamPort b c v).pc = s.pc := rfl
@[simp] theorem State.setRamPort_stack (b : BitVec 3) (c : BitVec 2) (v : Nibble) :
    (s.setRamPort b c v).stack = s.stack := rfl
@[simp] theorem State.setRamPort_depth (b : BitVec 3) (c : BitVec 2) (v : Nibble) :
    (s.setRamPort b c v).depth = s.depth := rfl
@[simp] theorem State.setRamPort_latch (b : BitVec 3) (c : BitVec 2) (v : Nibble) :
    (s.setRamPort b c v).latch = s.latch := rfl
@[simp] theorem State.setRamPort_bank (b : BitVec 3) (c : BitVec 2) (v : Nibble) :
    (s.setRamPort b c v).bank = s.bank := rfl
@[simp] theorem State.setRamPort_run (b : BitVec 3) (c : BitVec 2) (v : Nibble) :
    (s.setRamPort b c v).run = s.run := rfl
@[simp] theorem State.setRamPort_reason (b : BitVec 3) (c : BitVec 2) (v : Nibble) :
    (s.setRamPort b c v).reason = s.reason := rfl
@[simp] theorem State.setRamPort_pm (b : BitVec 3) (c : BitVec 2) (v : Nibble) :
    (s.setRamPort b c v).pm = s.pm := rfl
@[simp] theorem State.setRamPort_dm (b : BitVec 3) (c : BitVec 2) (v : Nibble) :
    (s.setRamPort b c v).dm = s.dm := rfl
@[simp] theorem State.setRamPort_sm (b : BitVec 3) (c : BitVec 2) (v : Nibble) :
    (s.setRamPort b c v).sm = s.sm := rfl
@[simp] theorem State.setRamPort_romPort (b : BitVec 3) (c : BitVec 2) (v : Nibble) :
    (s.setRamPort b c v).romPort = s.romPort := rfl
@[simp] theorem State.setRamPort_cfg (b : BitVec 3) (c : BitVec 2) (v : Nibble) :
    (s.setRamPort b c v).cfg = s.cfg := rfl
@[simp] theorem State.setRamPort_getReg (b : BitVec 3) (c : BitVec 2) (v : Nibble) (q : Reg) :
    (s.setRamPort b c v).getReg q = s.getReg q := rfl
@[simp] theorem State.setRamPort_getPair (b : BitVec 3) (c : BitVec 2) (v : Nibble) (q : Pair) :
    (s.setRamPort b c v).getPair q = s.getPair q := rfl
@[simp] theorem State.setRamPort_nxt (b : BitVec 3) (c : BitVec 2) (v : Nibble) (k : Nat) :
    (s.setRamPort b c v).nxt k = s.nxt k := rfl
@[simp] theorem State.setRamPort_sel (b : BitVec 3) (c : BitVec 2) (v : Nibble) :
    (s.setRamPort b c v).sel = s.sel := rfl
@[simp] theorem State.setRamPort_off (b : BitVec 3) (c : BitVec 2) (v : Nibble) :
    (s.setRamPort b c v).off = s.off := rfl
@[simp] theorem State.setRamPort_readPM (b : BitVec 3) (c : BitVec 2) (v : Nibble) (k : Addr) :
    (s.setRamPort b c v).readPM k = s.readPM k := rfl
@[simp] theorem State.setRamPort_readDM (b : BitVec 3) (c : BitVec 2) (v : Nibble) (b' : BitVec 3) (e' o' : Nibble) :
    (s.setRamPort b c v).readDM b' e' o' = s.readDM b' e' o' := rfl
@[simp] theorem State.setRamPort_readSM (b : BitVec 3) (c : BitVec 2) (v : Nibble) (b' : BitVec 3) (e' : Nibble) (i' : Fin 4) :
    (s.setRamPort b c v).readSM b' e' i' = s.readSM b' e' i' := rfl
@[simp] theorem State.setRamPort_getRomPort (b : BitVec 3) (c : BitVec 2) (v : Nibble) (e' : Nibble) :
    (s.setRamPort b c v).getRomPort e' = s.getRomPort e' := rfl
@[simp] theorem State.setRamPort_romInput (b : BitVec 3) (c : BitVec 2) (v : Nibble) (e' : Nibble) :
    (s.setRamPort b c v).romInput e' = s.romInput e' := rfl
@[simp] theorem State.setRamPort_trapped (b : BitVec 3) (c : BitVec 2) (v : Nibble) (k : Addr) :
    (s.setRamPort b c v).trapped k = s.trapped k := rfl
@[simp] theorem State.setRamPort_currentNibble (b : BitVec 3) (c : BitVec 2) (v : Nibble) :
    (s.setRamPort b c v).currentNibble = s.currentNibble := rfl

/-! ### `State.setRomPort` -/

@[simp] theorem State.setRomPort_x (e v : Nibble) : (s.setRomPort e v).x = s.x := rfl
@[simp] theorem State.setRomPort_acc (e v : Nibble) : (s.setRomPort e v).acc = s.acc := rfl
@[simp] theorem State.setRomPort_cy (e v : Nibble) : (s.setRomPort e v).cy = s.cy := rfl
@[simp] theorem State.setRomPort_pc (e v : Nibble) : (s.setRomPort e v).pc = s.pc := rfl
@[simp] theorem State.setRomPort_stack (e v : Nibble) : (s.setRomPort e v).stack = s.stack := rfl
@[simp] theorem State.setRomPort_depth (e v : Nibble) : (s.setRomPort e v).depth = s.depth := rfl
@[simp] theorem State.setRomPort_latch (e v : Nibble) : (s.setRomPort e v).latch = s.latch := rfl
@[simp] theorem State.setRomPort_bank (e v : Nibble) : (s.setRomPort e v).bank = s.bank := rfl
@[simp] theorem State.setRomPort_run (e v : Nibble) : (s.setRomPort e v).run = s.run := rfl
@[simp] theorem State.setRomPort_reason (e v : Nibble) : (s.setRomPort e v).reason = s.reason := rfl
@[simp] theorem State.setRomPort_pm (e v : Nibble) : (s.setRomPort e v).pm = s.pm := rfl
@[simp] theorem State.setRomPort_dm (e v : Nibble) : (s.setRomPort e v).dm = s.dm := rfl
@[simp] theorem State.setRomPort_sm (e v : Nibble) : (s.setRomPort e v).sm = s.sm := rfl
@[simp] theorem State.setRomPort_ramPort (e v : Nibble) :
    (s.setRomPort e v).ramPort = s.ramPort := rfl
@[simp] theorem State.setRomPort_cfg (e v : Nibble) : (s.setRomPort e v).cfg = s.cfg := rfl
@[simp] theorem State.setRomPort_getReg (e v : Nibble) (q : Reg) :
    (s.setRomPort e v).getReg q = s.getReg q := rfl
@[simp] theorem State.setRomPort_getPair (e v : Nibble) (q : Pair) :
    (s.setRomPort e v).getPair q = s.getPair q := rfl
@[simp] theorem State.setRomPort_nxt (e v : Nibble) (k : Nat) :
    (s.setRomPort e v).nxt k = s.nxt k := rfl
@[simp] theorem State.setRomPort_sel (e v : Nibble) :
    (s.setRomPort e v).sel = s.sel := rfl
@[simp] theorem State.setRomPort_off (e v : Nibble) :
    (s.setRomPort e v).off = s.off := rfl
@[simp] theorem State.setRomPort_readPM (e v : Nibble) (k : Addr) :
    (s.setRomPort e v).readPM k = s.readPM k := rfl
@[simp] theorem State.setRomPort_readDM (e v : Nibble) (b' : BitVec 3) (e' o' : Nibble) :
    (s.setRomPort e v).readDM b' e' o' = s.readDM b' e' o' := rfl
@[simp] theorem State.setRomPort_readSM (e v : Nibble) (b' : BitVec 3) (e' : Nibble) (i' : Fin 4) :
    (s.setRomPort e v).readSM b' e' i' = s.readSM b' e' i' := rfl
@[simp] theorem State.setRomPort_getRamPort (e v : Nibble) (b' : BitVec 3) (c' : BitVec 2) :
    (s.setRomPort e v).getRamPort b' c' = s.getRamPort b' c' := rfl
@[simp] theorem State.setRomPort_romInput (e v : Nibble) (e' : Nibble) :
    (s.setRomPort e v).romInput e' = s.romInput e' := rfl
@[simp] theorem State.setRomPort_trapped (e v : Nibble) (k : Addr) :
    (s.setRomPort e v).trapped k = s.trapped k := rfl
@[simp] theorem State.setRomPort_currentNibble (e v : Nibble) :
    (s.setRomPort e v).currentNibble = s.currentNibble := rfl

/-! ### `State.enterHalted` -/

@[simp] theorem State.enterHalted_x (r : HaltReason) : (s.enterHalted r).x = s.x := rfl
@[simp] theorem State.enterHalted_acc (r : HaltReason) : (s.enterHalted r).acc = s.acc := rfl
@[simp] theorem State.enterHalted_cy (r : HaltReason) : (s.enterHalted r).cy = s.cy := rfl
@[simp] theorem State.enterHalted_pc (r : HaltReason) : (s.enterHalted r).pc = s.pc := rfl
@[simp] theorem State.enterHalted_stack (r : HaltReason) : (s.enterHalted r).stack = s.stack := rfl
@[simp] theorem State.enterHalted_depth (r : HaltReason) : (s.enterHalted r).depth = s.depth := rfl
@[simp] theorem State.enterHalted_latch (r : HaltReason) : (s.enterHalted r).latch = s.latch := rfl
@[simp] theorem State.enterHalted_bank (r : HaltReason) : (s.enterHalted r).bank = s.bank := rfl
@[simp] theorem State.enterHalted_run (r : HaltReason) : (s.enterHalted r).run = .halted := rfl
@[simp] theorem State.enterHalted_reason (r : HaltReason) : (s.enterHalted r).reason = r := rfl
@[simp] theorem State.enterHalted_pm (r : HaltReason) : (s.enterHalted r).pm = s.pm := rfl
@[simp] theorem State.enterHalted_dm (r : HaltReason) : (s.enterHalted r).dm = s.dm := rfl
@[simp] theorem State.enterHalted_sm (r : HaltReason) : (s.enterHalted r).sm = s.sm := rfl
@[simp] theorem State.enterHalted_ramPort (r : HaltReason) :
    (s.enterHalted r).ramPort = s.ramPort := rfl
@[simp] theorem State.enterHalted_romPort (r : HaltReason) :
    (s.enterHalted r).romPort = s.romPort := rfl
@[simp] theorem State.enterHalted_cfg (r : HaltReason) : (s.enterHalted r).cfg = s.cfg := rfl
@[simp] theorem State.enterHalted_getReg (r : HaltReason) (q : Reg) :
    (s.enterHalted r).getReg q = s.getReg q := rfl
@[simp] theorem State.enterHalted_getPair (r : HaltReason) (q : Pair) :
    (s.enterHalted r).getPair q = s.getPair q := rfl
@[simp] theorem State.enterHalted_nxt (r : HaltReason) (k : Nat) :
    (s.enterHalted r).nxt k = s.nxt k := rfl
@[simp] theorem State.enterHalted_sel (r : HaltReason) :
    (s.enterHalted r).sel = s.sel := rfl
@[simp] theorem State.enterHalted_off (r : HaltReason) :
    (s.enterHalted r).off = s.off := rfl
@[simp] theorem State.enterHalted_readPM (r : HaltReason) (k : Addr) :
    (s.enterHalted r).readPM k = s.readPM k := rfl
@[simp] theorem State.enterHalted_readDM (r : HaltReason) (b' : BitVec 3) (e' o' : Nibble) :
    (s.enterHalted r).readDM b' e' o' = s.readDM b' e' o' := rfl
@[simp] theorem State.enterHalted_readSM (r : HaltReason) (b' : BitVec 3) (e' : Nibble) (i' : Fin 4) :
    (s.enterHalted r).readSM b' e' i' = s.readSM b' e' i' := rfl
@[simp] theorem State.enterHalted_getRamPort (r : HaltReason) (b' : BitVec 3) (c' : BitVec 2) :
    (s.enterHalted r).getRamPort b' c' = s.getRamPort b' c' := rfl
@[simp] theorem State.enterHalted_getRomPort (r : HaltReason) (e' : Nibble) :
    (s.enterHalted r).getRomPort e' = s.getRomPort e' := rfl
@[simp] theorem State.enterHalted_romInput (r : HaltReason) (e' : Nibble) :
    (s.enterHalted r).romInput e' = s.romInput e' := rfl
@[simp] theorem State.enterHalted_trapped (r : HaltReason) (k : Addr) :
    (s.enterHalted r).trapped k = s.trapped k := rfl
@[simp] theorem State.enterHalted_currentNibble (r : HaltReason) :
    (s.enterHalted r).currentNibble = s.currentNibble := rfl

/-! ### `State.raiseFatal` -/

@[simp] theorem State.raiseFatal_x (r : HaltReason) : (s.raiseFatal r).x = s.x := rfl
@[simp] theorem State.raiseFatal_acc (r : HaltReason) : (s.raiseFatal r).acc = s.acc := rfl
@[simp] theorem State.raiseFatal_cy (r : HaltReason) : (s.raiseFatal r).cy = s.cy := rfl
@[simp] theorem State.raiseFatal_pc (r : HaltReason) : (s.raiseFatal r).pc = s.pc := rfl
@[simp] theorem State.raiseFatal_stack (r : HaltReason) : (s.raiseFatal r).stack = s.stack := rfl
@[simp] theorem State.raiseFatal_depth (r : HaltReason) : (s.raiseFatal r).depth = s.depth := rfl
@[simp] theorem State.raiseFatal_latch (r : HaltReason) : (s.raiseFatal r).latch = s.latch := rfl
@[simp] theorem State.raiseFatal_bank (r : HaltReason) : (s.raiseFatal r).bank = s.bank := rfl
@[simp] theorem State.raiseFatal_run (r : HaltReason) : (s.raiseFatal r).run = .halted := rfl
@[simp] theorem State.raiseFatal_reason (r : HaltReason) : (s.raiseFatal r).reason = r := rfl
@[simp] theorem State.raiseFatal_pm (r : HaltReason) : (s.raiseFatal r).pm = s.pm := rfl
@[simp] theorem State.raiseFatal_dm (r : HaltReason) : (s.raiseFatal r).dm = s.dm := rfl
@[simp] theorem State.raiseFatal_sm (r : HaltReason) : (s.raiseFatal r).sm = s.sm := rfl
@[simp] theorem State.raiseFatal_ramPort (r : HaltReason) :
    (s.raiseFatal r).ramPort = s.ramPort := rfl
@[simp] theorem State.raiseFatal_romPort (r : HaltReason) :
    (s.raiseFatal r).romPort = s.romPort := rfl
@[simp] theorem State.raiseFatal_cfg (r : HaltReason) : (s.raiseFatal r).cfg = s.cfg := rfl
@[simp] theorem State.raiseFatal_getReg (r : HaltReason) (q : Reg) :
    (s.raiseFatal r).getReg q = s.getReg q := rfl
@[simp] theorem State.raiseFatal_getPair (r : HaltReason) (q : Pair) :
    (s.raiseFatal r).getPair q = s.getPair q := rfl
@[simp] theorem State.raiseFatal_nxt (r : HaltReason) (k : Nat) :
    (s.raiseFatal r).nxt k = s.nxt k := rfl
@[simp] theorem State.raiseFatal_sel (r : HaltReason) :
    (s.raiseFatal r).sel = s.sel := rfl
@[simp] theorem State.raiseFatal_off (r : HaltReason) :
    (s.raiseFatal r).off = s.off := rfl
@[simp] theorem State.raiseFatal_readPM (r : HaltReason) (k : Addr) :
    (s.raiseFatal r).readPM k = s.readPM k := rfl
@[simp] theorem State.raiseFatal_readDM (r : HaltReason) (b' : BitVec 3) (e' o' : Nibble) :
    (s.raiseFatal r).readDM b' e' o' = s.readDM b' e' o' := rfl
@[simp] theorem State.raiseFatal_readSM (r : HaltReason) (b' : BitVec 3) (e' : Nibble) (i' : Fin 4) :
    (s.raiseFatal r).readSM b' e' i' = s.readSM b' e' i' := rfl
@[simp] theorem State.raiseFatal_getRamPort (r : HaltReason) (b' : BitVec 3) (c' : BitVec 2) :
    (s.raiseFatal r).getRamPort b' c' = s.getRamPort b' c' := rfl
@[simp] theorem State.raiseFatal_getRomPort (r : HaltReason) (e' : Nibble) :
    (s.raiseFatal r).getRomPort e' = s.getRomPort e' := rfl
@[simp] theorem State.raiseFatal_romInput (r : HaltReason) (e' : Nibble) :
    (s.raiseFatal r).romInput e' = s.romInput e' := rfl
@[simp] theorem State.raiseFatal_trapped (r : HaltReason) (k : Addr) :
    (s.raiseFatal r).trapped k = s.trapped k := rfl
@[simp] theorem State.raiseFatal_currentNibble (r : HaltReason) :
    (s.raiseFatal r).currentNibble = s.currentNibble := rfl

end Sys2Proof.Machine
end

