-- ==== Sys2Proof/Laws/Outcome.lean ====
section
/-! SUPPORT. What each way of ending an instruction, each control transfer with more than one outcome,
and the step can answer, said once. -/

namespace Sys2Proof.Machine

@[simp] theorem completes_eq_next {n : Nat} {s t : State} :
    completes n s = .next t ↔ s.advance n = t := by simp [completes]

@[simp] theorem transfers_eq_next {a : Addr} {s t : State} :
    transfers a s = .next t ↔ s.jump a = t := by simp [transfers]

@[simp] theorem completes_ne_fault {n : Nat} {s : State} {f : Fault} :
    completes n s ≠ .fault f := by simp [completes]

@[simp] theorem transfers_ne_fault {a : Addr} {s : State} {f : Fault} :
    transfers a s ≠ .fault f := by simp [transfers]

@[simp] theorem completes_ne_refused {n : Nat} {s : State} {f : Refusal} :
    completes n s ≠ .refused f := by simp [completes]

@[simp] theorem transfers_ne_refused {a : Addr} {s : State} {f : Refusal} :
    transfers a s ≠ .refused f := by simp [transfers]

/-- Everything a JMS can answer (44_control_flow.md R225, 60_exceptions.md R263). -/
theorem execJms_cases (a12 : Addr) (s : State) :
    (s.trapped a12 = true ∧ execJms a12 s = .fault (.trap s.pc)) ∨
    (s.trapped a12 = false ∧ s.depth.val = 3 ∧
      execJms a12 s = .next (s.raiseFatal .stackOverflow)) ∨
    (s.trapped a12 = false ∧ ∃ hd : s.depth.val < 3, execJms a12 s =
      .next { s with stack := s.stack.set s.depth.val (s.nxt 2),
                     depth := ⟨s.depth.val + 1, by omega⟩, pc := a12 }) := by
  unfold execJms
  cases ht : s.trapped a12 with
  | true => exact .inl ⟨rfl, rfl⟩
  | false =>
    refine .inr ?_
    cases hp : s.push (s.nxt 2) with
    | none => exact .inl ⟨rfl, State.push_eq_none.1 hp, rfl⟩
    | some t =>
      obtain ⟨hd, rfl⟩ := State.push_eq_some hp
      exact .inr ⟨rfl, hd, rfl⟩

/-- Everything a BBL can answer (44_control_flow.md R226). -/
theorem execBbl_cases (d : Nibble) (s : State) :
    (s.depth.val = 0 ∧ execBbl d s = .next (s.raiseFatal .stackUnderflow)) ∨
    (∃ hd : 0 < s.depth.val, execBbl d s =
      .next { s with depth := ⟨s.depth.val - 1, by omega⟩, pc := s.stack[s.depth.val - 1],
                     acc := d }) := by
  unfold execBbl
  cases hp : s.pop with
  | none => exact .inl ⟨State.pop_eq_none.1 hp, rfl⟩
  | some vt =>
    obtain ⟨v, t⟩ := vt
    obtain ⟨hd, rfl, rfl⟩ := State.pop_eq_some hp
    exact .inr ⟨hd, rfl⟩

/-- Everything an ISZ can answer (44_control_flow.md R224). -/
theorem execIsz_eq (r : Reg) (a8 : Byte) (s : State) :
    execIsz r a8 s = .next ((s.setReg r (incrementLaw (s.getReg r))).jump
      (if incrementLaw (s.getReg r) ≠ 0#4 then pageTarget (s.nxt 2) a8 else s.nxt 2)) := by
  unfold execIsz
  split_ifs <;> rfl

/-- Everything a JCN can answer (44_control_flow.md R223). -/
theorem execJcn_eq (c : Nibble) (a8 : Byte) (s : State) :
    execJcn c a8 s = .next (s.jump
      (if jumpCondition c s.acc s.cy then pageTarget (s.nxt 2) a8 else s.nxt 2)) := by
  unfold execJcn
  split_ifs <;> rfl

/-- A step answers a next state exactly while fetching, and then the one its instruction gives
(40_execution.md R111, R115). -/
theorem step_eq_next {s t : State} :
    step s = .next t ↔ s.run = .fetch ∧ exec s.fetchInstr s = .next t := by
  unfold step State.stepRefusal
  cases s.run <;> simp

theorem step_of_fetch {s : State} (h : s.run = .fetch) : step s = exec s.fetchInstr s := by
  simp [step, State.stepRefusal, h]

/-- The fetched instruction is what the decoder reads from the two words at pc. -/
theorem decode_fetch (s : State) :
    ∃ rest, decode [s.fetchFirst, s.fetchSecond] = .ok (s.fetchInstr, rest) := by
  by_cases h : wordCount s.fetchFirst = 2
  · exact ⟨_, by simp only [decode, State.fetchInstr, h, if_true]; rfl⟩
  · exact ⟨_, by simp only [decode, State.fetchInstr, h, if_false]; rfl⟩

@[simp] theorem State.after_zero (s : State) : State.after 0 s = some s := rfl

/-- One more step of a run (40_execution.md R120). -/
theorem State.after_succ {n : Nat} {s u : State} :
    State.after (n + 1) s = some u ↔ ∃ t, step s = .next t ∧ State.after n t = some u := by
  simp only [State.after]
  cases step s <;> simp

end Sys2Proof.Machine
end

