-- ==== Sys2Proof/Laws/PerInstr.lean ====
section
/-! SUPPORT. Laws of the syntax, one lemma per constructor of `Instr`. -/

namespace Sys2Proof.Laws

/-- The encoding has as many words as the instruction, and its first word tells that number
(30_encoding.md R81, R92). -/
def EncodeLength.Statement (i : Instr) : Prop :=
  i.wellFormed = true → (encode i).length = i.words ∧ (encode i).head?.map wordCount = some i.words

theorem EncodeLength.nop : EncodeLength.Statement .nop := fun _ => by decide

theorem EncodeLength.hlt : EncodeLength.Statement .hlt := fun _ => by decide

theorem EncodeLength.unassigned02 (w : Byte) : EncodeLength.Statement (.unassigned02 w) := fun h => by revert h; revert w; decide

theorem EncodeLength.unassigned04 (w : Byte) : EncodeLength.Statement (.unassigned04 w) := fun h => by revert h; revert w; decide

theorem EncodeLength.unassigned08 (w : Byte) : EncodeLength.Statement (.unassigned08 w) := fun h => by revert h; revert w; decide

theorem EncodeLength.jcn (c : Nibble) (a8 : Byte) : EncodeLength.Statement (.jcn c a8) := fun _ =>
  ⟨rfl, congrArg some ((by decide : ∀ c : Nibble, wordCount (0x1#4 ++ c) = 2) _)⟩

theorem EncodeLength.fim (p : Pair) (data8 : Byte) : EncodeLength.Statement (.fim p data8) := fun _ =>
  ⟨rfl, congrArg some ((by decide : ∀ p : Pair, wordCount (0x2#4 ++ Machine.pairBits p ++ 0#1) = 2) _)⟩

theorem EncodeLength.src (p : Pair) : EncodeLength.Statement (.src p) := fun _ => by revert p; decide

theorem EncodeLength.fin (p : Pair) : EncodeLength.Statement (.fin p) := fun _ => by revert p; decide

theorem EncodeLength.jin (p : Pair) : EncodeLength.Statement (.jin p) := fun _ => by revert p; decide

theorem EncodeLength.jun (a12 : Addr) : EncodeLength.Statement (.jun a12) := fun _ =>
  ⟨rfl, congrArg some ((by decide : ∀ h : Nibble, wordCount (0x4#4 ++ h) = 2) _)⟩

theorem EncodeLength.jms (a12 : Addr) : EncodeLength.Statement (.jms a12) := fun _ =>
  ⟨rfl, congrArg some ((by decide : ∀ h : Nibble, wordCount (0x5#4 ++ h) = 2) _)⟩

theorem EncodeLength.inc (r : Reg) : EncodeLength.Statement (.inc r) := fun _ => by revert r; decide

theorem EncodeLength.isz (r : Reg) (a8 : Byte) : EncodeLength.Statement (.isz r a8) := fun _ =>
  ⟨rfl, congrArg some ((by decide : ∀ r : Reg, wordCount (0x7#4 ++ Machine.regBits r) = 2) _)⟩

theorem EncodeLength.add (r : Reg) : EncodeLength.Statement (.add r) := fun _ => by revert r; decide

theorem EncodeLength.sub (r : Reg) : EncodeLength.Statement (.sub r) := fun _ => by revert r; decide

theorem EncodeLength.ld (r : Reg) : EncodeLength.Statement (.ld r) := fun _ => by revert r; decide

theorem EncodeLength.xch (r : Reg) : EncodeLength.Statement (.xch r) := fun _ => by revert r; decide

theorem EncodeLength.bbl (d : Nibble) : EncodeLength.Statement (.bbl d) := fun _ => by revert d; decide

theorem EncodeLength.ldm (d : Nibble) : EncodeLength.Statement (.ldm d) := fun _ => by revert d; decide

theorem EncodeLength.wrm : EncodeLength.Statement .wrm := fun _ => by decide

theorem EncodeLength.wmp : EncodeLength.Statement .wmp := fun _ => by decide

theorem EncodeLength.wrr : EncodeLength.Statement .wrr := fun _ => by decide

theorem EncodeLength.wpm : EncodeLength.Statement .wpm := fun _ => by decide

theorem EncodeLength.wr0 : EncodeLength.Statement .wr0 := fun _ => by decide

theorem EncodeLength.wr1 : EncodeLength.Statement .wr1 := fun _ => by decide

theorem EncodeLength.wr2 : EncodeLength.Statement .wr2 := fun _ => by decide

theorem EncodeLength.wr3 : EncodeLength.Statement .wr3 := fun _ => by decide

theorem EncodeLength.sbm : EncodeLength.Statement .sbm := fun _ => by decide

theorem EncodeLength.rdm : EncodeLength.Statement .rdm := fun _ => by decide

theorem EncodeLength.rdr : EncodeLength.Statement .rdr := fun _ => by decide

theorem EncodeLength.adm : EncodeLength.Statement .adm := fun _ => by decide

theorem EncodeLength.rd0 : EncodeLength.Statement .rd0 := fun _ => by decide

theorem EncodeLength.rd1 : EncodeLength.Statement .rd1 := fun _ => by decide

theorem EncodeLength.rd2 : EncodeLength.Statement .rd2 := fun _ => by decide

theorem EncodeLength.rd3 : EncodeLength.Statement .rd3 := fun _ => by decide

theorem EncodeLength.clb : EncodeLength.Statement .clb := fun _ => by decide

theorem EncodeLength.clc : EncodeLength.Statement .clc := fun _ => by decide

theorem EncodeLength.iac : EncodeLength.Statement .iac := fun _ => by decide

theorem EncodeLength.cmc : EncodeLength.Statement .cmc := fun _ => by decide

theorem EncodeLength.cma : EncodeLength.Statement .cma := fun _ => by decide

theorem EncodeLength.ral : EncodeLength.Statement .ral := fun _ => by decide

theorem EncodeLength.rar : EncodeLength.Statement .rar := fun _ => by decide

theorem EncodeLength.tcc : EncodeLength.Statement .tcc := fun _ => by decide

theorem EncodeLength.dac : EncodeLength.Statement .dac := fun _ => by decide

theorem EncodeLength.tcs : EncodeLength.Statement .tcs := fun _ => by decide

theorem EncodeLength.stc : EncodeLength.Statement .stc := fun _ => by decide

theorem EncodeLength.daa : EncodeLength.Statement .daa := fun _ => by decide

theorem EncodeLength.kbp : EncodeLength.Statement .kbp := fun _ => by decide

theorem EncodeLength.dcl : EncodeLength.Statement .dcl := fun _ => by decide

theorem EncodeLength.unassignedFE (w : Byte) : EncodeLength.Statement (.unassignedFE w) := fun h => by revert h; revert w; decide

end Sys2Proof.Laws
end

