-- ==== Sys2Proof/Tests/Slice0.lean ====
section
/-! SUPPORT. Tests with values from 95_test_vectors.md and the opcode map of 30_encoding.md, and, for every
statement with hypotheses, a named witness that meets them together. -/

namespace Sys2Proof.Tests

open Sys2Proof Sys2Proof.Machine

/-- The reset state with words placed at `pc`. -/
def prog (pc : Addr) (ws : List Byte) : State :=
  { State.reset with pc := pc, pm := placeBytes [] pc ws }

/-- The reset state with one register set. -/
def withReg (r : Reg) (v : Nibble) : State := State.reset.setReg r v

/-- A view of the next state of an outcome. -/
def view {α : Type} (f : State → α) (o : Host.Outcome State Fault Refusal) : Option α :=
  match o with
  | .next t => some (f t)
  | .fault _ => none
  | .refused _ => none

/-- A table row of 95_test_vectors.md section 2.3: 16 A + CY after the instruction, for A = 0 to 15. -/
def row (i : Instr) (c : Bool) : List Nat :=
  (List.range 16).map fun a =>
    (view (fun t => 16 * t.acc.toNat + t.cy.toNat)
      (exec i { State.reset with acc := BitVec.ofNat 4 a, cy := c })).getD 999

/-! ### Well-formedness: an ill-formed term for each check -/

theorem test_wf_unassigned02 : (Instr.unassigned02 0x04).wellFormed = false := by decide
theorem test_wf_unassigned04 : (Instr.unassigned04 0x03).wellFormed = false := by decide
theorem test_wf_unassigned08 : (Instr.unassigned08 0x10).wellFormed = false := by decide
theorem test_wf_unassignedFE : (Instr.unassignedFE 0xFD).wellFormed = false := by decide

/-! ### Decoding, from words written out from the opcode map (30_encoding.md R85 to R90) -/

theorem test_decode_misc : decodeWords 0x00 0 = .nop ∧ decodeWords 0x01 0 = .hlt ∧
    decodeWords 0x02 0 = .unassigned02 0x02 ∧ decodeWords 0x04 0 = .unassigned04 0x04 ∧
    decodeWords 0x08 0 = .unassigned08 0x08 ∧ decodeWords 0x0F 0 = .unassigned08 0x0F := by decide

theorem test_decode_pairs : decodeWords 0x22 0x5A = .fim 1 0x5A ∧ decodeWords 0x2F 0 = .src 7 ∧
    decodeWords 0x3E 0 = .fin 7 ∧ decodeWords 0x37 0 = .jin 3 := by decide

theorem test_decode_jumps : decodeWords 0x14 0x20 = .jcn 4 0x20 ∧ decodeWords 0x43 0xA5 = .jun 0x3A5 ∧
    decodeWords 0x52 0x34 = .jms 0x234 ∧ decodeWords 0x74 0x10 = .isz 4 0x10 ∧
    decodeWords 0xC3 0 = .bbl 3 := by decide

theorem test_decode_registers : decodeWords 0x67 0 = .inc 7 ∧ decodeWords 0x8F 0 = .add 15 ∧
    decodeWords 0x93 0 = .sub 3 ∧ decodeWords 0xA9 0 = .ld 9 ∧ decodeWords 0xB2 0 = .xch 2 ∧
    decodeWords 0xD5 0 = .ldm 5 := by decide

theorem test_decode_memory_low : decodeWords 0xE0 0 = .wrm ∧ decodeWords 0xE1 0 = .wmp ∧
    decodeWords 0xE2 0 = .wrr ∧ decodeWords 0xE3 0 = .wpm ∧ decodeWords 0xE4 0 = .wr0 ∧
    decodeWords 0xE5 0 = .wr1 ∧ decodeWords 0xE6 0 = .wr2 ∧ decodeWords 0xE7 0 = .wr3 := by decide

theorem test_decode_memory_high : decodeWords 0xE8 0 = .sbm ∧ decodeWords 0xE9 0 = .rdm ∧
    decodeWords 0xEA 0 = .rdr ∧ decodeWords 0xEB 0 = .adm ∧ decodeWords 0xEC 0 = .rd0 ∧
    decodeWords 0xED 0 = .rd1 ∧ decodeWords 0xEE 0 = .rd2 ∧ decodeWords 0xEF 0 = .rd3 := by decide

theorem test_decode_accumulator_low : decodeWords 0xF0 0 = .clb ∧ decodeWords 0xF1 0 = .clc ∧
    decodeWords 0xF2 0 = .iac ∧ decodeWords 0xF3 0 = .cmc ∧ decodeWords 0xF4 0 = .cma ∧
    decodeWords 0xF5 0 = .ral ∧ decodeWords 0xF6 0 = .rar ∧ decodeWords 0xF7 0 = .tcc := by decide

theorem test_decode_accumulator_high : decodeWords 0xF8 0 = .dac ∧ decodeWords 0xF9 0 = .tcs ∧
    decodeWords 0xFA 0 = .stc ∧ decodeWords 0xFB 0 = .daa ∧ decodeWords 0xFC 0 = .kbp ∧
    decodeWords 0xFD 0 = .dcl ∧ decodeWords 0xFE 0 = .unassignedFE 0xFE := by decide

theorem test_decode_empty : (decode []).toOption = none := by decide
theorem test_decode_truncated : (decode [0x43]).toOption = none := by decide

/-- The second word counts from bit 8 of a table word: 0x43 0xA5 is JUN 0x3A5. -/
theorem test_table_word : decodeTableWord 16 0xA543 = some (.jun 0x3A5) ∧
    decodeTableWord 8 0xA543 = some (.jun 0x300) := by decide

theorem test_fetch_word : view State.pc (step (State.reset.withFetchWord 16 0xA543)) = some 0x3A5 := by
  decide

/-- A two-word fetch across the top of program memory (95_test_vectors.md section 2.1). -/
theorem test_fetch_wraps : view State.pc (step (prog 0xFFF [0x40, 0x12])) = some 0x012 := by decide

/-! ### Data transfer (95_test_vectors.md section 2.2) -/

theorem test_nop_wraps : view State.pc (exec .nop (prog 0xFFF [])) = some 0x000 := by decide

theorem test_unassigned : view State.pc (exec (.unassigned08 0x0F) State.reset) = some 1 ∧
    view State.pc (exec (.unassigned02 2) State.reset) = some 1 ∧
    view State.pc (exec (.unassigned04 4) State.reset) = some 1 ∧
    view State.pc (exec (.unassignedFE 0xFF) State.reset) = some 1 := by decide

theorem test_ldm : view (fun t => (t.acc, t.cy)) (exec (.ldm 15) { State.reset with cy := true }) =
    some (15, true) := by decide

theorem test_ld : view (fun t => (t.acc, t.getReg 9)) (exec (.ld 9) (withReg 9 0xC)) =
    some (0xC, 0xC) := by decide

theorem test_xch : view (fun t => (t.acc, t.getReg 2)) (exec (.xch 2) { withReg 2 8 with acc := 3 }) =
    some (8, 3) := by decide

theorem test_fim : view (fun t => (t.getReg 2, t.getReg 3, t.pc)) (exec (.fim 1 0x5A) State.reset) =
    some (5, 0xA, 2) := by decide

theorem test_fim_last : view (fun t => (t.getReg 14, t.getReg 15)) (exec (.fim 7 0xFE) State.reset) =
    some (0xF, 0xE) := by decide

/-! ### ALU (95_test_vectors.md section 2.3) -/

theorem test_add_row7 : (view (fun _ => ()) (exec (.add 0) State.reset)).isSome = true ∧
    (List.range 16).map (fun a => (view (fun t => 16 * t.acc.toNat + t.cy.toNat)
      (exec (.add 7) { withReg 7 (BitVec.ofNat 4 a) with acc := 7, cy := true })).getD 999) =
    [0x80, 0x90, 0xA0, 0xB0, 0xC0, 0xD0, 0xE0, 0xF0, 0x01, 0x11, 0x21, 0x31, 0x41, 0x51, 0x61, 0x71] := by
  decide

theorem test_sub_row5 :
    (List.range 16).map (fun a => (view (fun t => 16 * t.acc.toNat + t.cy.toNat)
      (exec (.sub 7) { withReg 7 (BitVec.ofNat 4 a) with acc := 5, cy := true })).getD 999) =
    [0x41, 0x31, 0x21, 0x11, 0x01, 0xF0, 0xE0, 0xD0, 0xC0, 0xB0, 0xA0, 0x90, 0x80, 0x70, 0x60, 0x50] := by
  decide

theorem test_adm : view (fun t => (t.acc, t.cy, t.readDM 0 0 0))
    (exec .adm { State.reset.writeDM 0 0 0 0xF with acc := 1 }) = some (0, true, 0xF) := by decide

theorem test_sbm : view (fun t => (t.acc, t.cy))
    (exec .sbm { State.reset.writeDM 0 0 0 2 with acc := 7 }) = some (5, true) := by decide

theorem test_inc : view (fun t => (t.getReg 7, t.cy)) (exec (.inc 7) { withReg 7 15 with cy := true }) =
    some (0, true) := by decide

theorem test_iac : row .iac true =
    [0x10, 0x20, 0x30, 0x40, 0x50, 0x60, 0x70, 0x80, 0x90, 0xA0, 0xB0, 0xC0, 0xD0, 0xE0, 0xF0, 0x01] := by
  decide

theorem test_dac : row .dac false =
    [0xF0, 0x01, 0x11, 0x21, 0x31, 0x41, 0x51, 0x61, 0x71, 0x81, 0x91, 0xA1, 0xB1, 0xC1, 0xD1, 0xE1] := by
  decide

theorem test_ral : row .ral true =
    [0x10, 0x30, 0x50, 0x70, 0x90, 0xB0, 0xD0, 0xF0, 0x11, 0x31, 0x51, 0x71, 0x91, 0xB1, 0xD1, 0xF1] := by
  decide

theorem test_rar : row .rar true =
    [0x80, 0x81, 0x90, 0x91, 0xA0, 0xA1, 0xB0, 0xB1, 0xC0, 0xC1, 0xD0, 0xD1, 0xE0, 0xE1, 0xF0, 0xF1] := by
  decide

theorem test_cma : row .cma true =
    [0xF1, 0xE1, 0xD1, 0xC1, 0xB1, 0xA1, 0x91, 0x81, 0x71, 0x61, 0x51, 0x41, 0x31, 0x21, 0x11, 0x01] := by
  decide

theorem test_daa_clear : row .daa false =
    [0x00, 0x10, 0x20, 0x30, 0x40, 0x50, 0x60, 0x70, 0x80, 0x90, 0x01, 0x11, 0x21, 0x31, 0x41, 0x51] := by
  decide

theorem test_daa_set : row .daa true =
    [0x61, 0x71, 0x81, 0x91, 0xA1, 0xB1, 0xC1, 0xD1, 0xE1, 0xF1, 0x01, 0x11, 0x21, 0x31, 0x41, 0x51] := by
  decide

theorem test_kbp : row .kbp true =
    [0x01, 0x11, 0x21, 0xF1, 0x31, 0xF1, 0xF1, 0xF1, 0x41, 0xF1, 0xF1, 0xF1, 0xF1, 0xF1, 0xF1, 0xF1] := by
  decide

theorem test_flag_operations : (row .clb true)[9]? = some 0x00 ∧ (row .clc true)[9]? = some 0x90 ∧
    (row .cmc true)[9]? = some 0x90 ∧ (row .stc false)[9]? = some 0x91 ∧
    (row .tcc true)[9]? = some 0x10 ∧ (row .tcs true)[9]? = some 0xA0 := by decide

theorem test_flag_operations_other_carry : (row .cmc false)[9]? = some 0x91 ∧
    (row .tcc false)[9]? = some 0x00 ∧ (row .tcs false)[9]? = some 0x90 ∧
    (row .stc true)[9]? = some 0x91 := by decide

/-! ### Memory interface (95_test_vectors.md section 2.4) -/

theorem test_src : view (fun t => (t.sel, t.off)) (exec (.src 2) ((withReg 4 3).setReg 5 0xA)) =
    some (3, 0xA) := by decide

theorem test_dcl : view (fun t => (t.bank, t.acc)) (exec .dcl { State.reset with acc := 0xB }) =
    some (3, 0xB) := by decide

theorem test_wrm : view (fun t => (t.readDM 0 1 2, t.readDM 0 1 3))
    (exec .wrm { State.reset.writeDM 0 1 3 9 with latch := 0x12, acc := 7 }) = some (7, 9) := by decide

theorem test_rdm : view State.acc (exec .rdm { State.reset.writeDM 0 1 2 7 with latch := 0x12 }) =
    some 7 := by decide

theorem test_status_writes :
    view (fun t => (t.readSM 2 5 0, t.readSM 2 5 1))
      (exec .wr0 { State.reset with bank := 2, latch := 0x5E, acc := 0xC }) = some (0xC, 0) ∧
    view (fun t => t.readSM 2 5 1) (exec .wr1 { State.reset with bank := 2, latch := 0x5E, acc := 1 }) =
      some 1 ∧
    view (fun t => t.readSM 2 5 2) (exec .wr2 { State.reset with bank := 2, latch := 0x5E, acc := 2 }) =
      some 2 ∧
    view (fun t => t.readSM 2 5 3) (exec .wr3 { State.reset with bank := 2, latch := 0x5E, acc := 0xF }) =
      some 0xF := by decide

theorem test_status_reads :
    view State.acc (exec .rd0 { State.reset.writeSM 2 5 0 0xC with bank := 2, latch := 0x51 }) =
      some 0xC ∧
    view State.acc (exec .rd1 { State.reset.writeSM 2 5 1 3 with bank := 2, latch := 0x52 }) = some 3 ∧
    view State.acc (exec .rd2 { State.reset.writeSM 2 5 2 4 with bank := 2, latch := 0x53 }) = some 4 ∧
    view State.acc (exec .rd3 { State.reset.writeSM 2 5 3 0xF with bank := 2, latch := 0x50 }) =
      some 0xF := by decide

theorem test_wmp : view (fun t => (t.getRamPort 1 2, t.getRamPort 1 1))
    (exec .wmp { State.reset with bank := 1, latch := 0x90, acc := 6 }) = some (6, 0) := by decide

theorem test_wrr : view (fun t => (t.getRomPort 4, t.getRomPort 5))
    (exec .wrr { State.reset with latch := 0x40, acc := 9 }) = some (9, 0) := by decide

theorem test_rdr_default : view State.acc (exec .rdr { State.reset with acc := 7 }) = some 0 := by decide

theorem test_rdr : view State.acc (exec .rdr { State.reset with
    latch := 0x30, cfg := { Config.default with romInput := Config.default.romInput.set 3 0xD } }) =
    some 0xD := by decide

theorem test_wpm : view (fun t => (t.pc, t.readPM 0x020))
    (exec .wpm { prog 0x020 [0xE3] with acc := 5 }) = some (0x021, 0xE3) := by decide

theorem test_fin_own_pair : view (fun t => (t.getReg 0, t.getReg 1)) (exec (.fin 0)
    { (withReg 0 1).setReg 1 0 with pc := 0x100, pm := placeBytes [] 0x110 [0xBC] }) =
    some (0xB, 0xC) := by decide

theorem test_fin_wraps : view (fun t => (t.getReg 0, t.getReg 1, t.pc)) (exec (.fin 0)
    { (withReg 0 1).setReg 1 2 with pc := 0xFFF, pm := placeBytes [] 0x012 [0x9A] }) =
    some (9, 0xA, 0) := by decide

/-! ### Control flow (95_test_vectors.md section 2.5) -/

theorem test_jun : view State.pc (step (prog 0 [0x43, 0xA5])) = some 0x3A5 := by decide

/-- pc after `JCN c, 0x20` at 0x105, for c = 0 to 15. -/
def jcnColumn (acc : Nibble) (cy : Bool) : List Nat :=
  (List.range 16).map fun c => (view (fun t => t.pc.toNat)
    (exec (.jcn (BitVec.ofNat 4 c) 0x20) { prog 0x105 [] with acc := acc, cy := cy })).getD 0

theorem test_jcn_zero_carry : jcnColumn 0 true =
    [0x107, 0x107, 0x120, 0x120, 0x120, 0x120, 0x120, 0x120,
     0x120, 0x120, 0x107, 0x107, 0x107, 0x107, 0x107, 0x107] := by decide

theorem test_jcn_nonzero_no_carry : jcnColumn 5 false =
    [0x107, 0x107, 0x107, 0x107, 0x107, 0x107, 0x107, 0x107,
     0x120, 0x120, 0x120, 0x120, 0x120, 0x120, 0x120, 0x120] := by decide

theorem test_isz_jumps : view (fun t => (t.getReg 0, t.pc)) (exec (.isz 0 0x10) (prog 0x1FE [])) =
    some (1, 0x210) := by decide

theorem test_isz_falls_through : view (fun t => (t.getReg 4, t.pc, t.cy))
    (exec (.isz 4 0x10) { withReg 4 0xF with pc := 0x200, cy := true }) = some (0, 0x202, true) := by
  decide

theorem test_jin : view State.pc (exec (.jin 3) { (withReg 6 4).setReg 7 2 with pc := 0x5C0 }) =
    some 0x542 := by decide

theorem test_jin_page_end : view State.pc (exec (.jin 0) { withReg 0 2 with pc := 0x0FF }) =
    some 0x120 := by decide

theorem test_jms : view (fun t => (t.stack[0], t.depth, t.pc)) (exec (.jms 0x034) (prog 0xFFE [])) =
    some (0x000, 1, 0x034) := by decide

theorem test_jms_overflow : view (fun t => (t.run, t.reason, t.pc, t.depth))
    (exec (.jms 0x234) { prog 0x100 [] with depth := 3 }) =
    some (.halted, .stackOverflow, 0x100, 3) := by decide

theorem test_bbl : view (fun t => (t.depth, t.pc, t.acc, t.stack[0])) (exec (.bbl 3) { prog 0x234 [] with
    depth := 1, stack := #v[0x102, 0, 0], acc := 9 }) = some (0, 0x102, 3, 0x102) := by decide

theorem test_bbl_underflow : view (fun t => (t.run, t.reason, t.pc, t.acc))
    (exec (.bbl 3) { prog 0x234 [] with acc := 9 }) =
    some (.halted, .stackUnderflow, 0x234, 9) := by decide

theorem test_hlt : view (fun t => (t.run, t.reason, t.pc, t.haltResult))
    (exec .hlt { prog 1 [] with acc := 5 }) =
    some (.halted, .haltInstruction, 2, some (.haltInstruction, 5)) := by decide

/-! ### Witnesses: the hypotheses of each statement, met together -/

theorem witness_DecodeOfEncodeReturnsInstruction :
    ∀ i ∈ [Instr.unassigned02 2, .unassigned02 3, .unassigned04 4, .unassigned04 7, .unassigned08 8,
      .unassigned08 15, .unassignedFE 254, .unassignedFE 255, .jun 0xFFF], i.wellFormed = true := by
  decide

theorem witness_StepRunsDecodedInstruction : ∃ (s : State) (i : Instr) (rest : List Byte),
    s.run = .fetch ∧ decode [s.readPM s.pc, s.readPM (s.pc + 1)] = .ok (i, rest) ∧
      i.wellFormed = true := ⟨prog 0xFFF [0x43, 0xA5], .jun 0x3A5, [], rfl, rfl, rfl⟩

theorem witness_StepRunsThePlacedWord : decodeTableWord 16 0xA543 = some (.jun 0x3A5) := by decide

theorem witness_StepExistsOnlyWhileFetching :
    ({ State.reset with run := .halted } : State).run ≠ .fetch ∧
    ({ State.reset with run := .dispatch } : State).run ≠ .fetch ∧ State.reset.run = .fetch ∧
    step { prog 0x100 [0x52, 0x34] with
      cfg := { Config.default with trapTarget := some 0x234, trapInterceptor := true } } =
      .fault (.trap 0x100) := ⟨by decide, by decide, rfl, rfl⟩

theorem witness_OtherInstructionsAdvancePcByTheirWords :
    writesPc .nop = false ∧ writesPc (.fim 0 0) = false ∧ writesPc .hlt = false := by decide

theorem witness_UnassignedWordsAreNoOps : ∀ w ∈ ([2, 15, 254, 255] : List Byte),
    (2 ≤ w.toNat ∧ w.toNat ≤ 15) ∨ 254 ≤ w.toNat := by decide

/-- Both ends of each unassigned row. -/
theorem witness_UnassignedWordsAreNoOps_rows :
    (∀ w ∈ ([2, 3] : List Byte), 2 ≤ w.toNat ∧ w.toNat ≤ 3) ∧
    (∀ w ∈ ([4, 7] : List Byte), 4 ≤ w.toNat ∧ w.toNat ≤ 7) ∧
    (∀ w ∈ ([8, 15] : List Byte), 8 ≤ w.toNat ∧ w.toNat ≤ 15) ∧
    ∀ w ∈ ([254, 255] : List Byte), 254 ≤ w.toNat := by decide

theorem witness_IllFormedTermsAreNoOpsByChoice : (Instr.unassigned02 4).wellFormed = false := by decide

theorem witness_RunEndsOnlyByHaltOrStackError_halt : ∃ s t : State,
    step s = .next t ∧ t.run ≠ .fetch := ⟨prog 0 [0x01], _, rfl, by decide⟩

theorem witness_RunEndsOnlyByHaltOrStackError_overflow : ∃ s t : State,
    step s = .next t ∧ t.run ≠ .fetch := ⟨{ prog 0 [0x50, 0x00] with depth := 3 }, _, rfl, by decide⟩

theorem witness_RunEndsOnlyByHaltOrStackError_underflow : ∃ s t : State,
    step s = .next t ∧ t.run ≠ .fetch := ⟨prog 0 [0xC0], _, rfl, by decide⟩

theorem witness_HaltResultIsTheAccumulatorFound : ∃ s t : State,
    step s = .next t ∧ t.run = .halted ∧ s.acc = 5 :=
  ⟨{ prog 0 [0x01] with acc := 5 }, _, rfl, rfl, rfl⟩

theorem witness_SafeStatesStepWithoutFatalError_call : ∃ s : State,
    s.run = .fetch ∧ s.SafeToStep ∧ s.fetchInstr = .jms 0x010 ∧ s.depth = 2 := by
  refine ⟨{ prog 0 [0x50, 0x10] with depth := 2 }, rfl, ⟨fun a h => ?_, fun d h => ?_⟩, rfl, rfl⟩
  · exact ⟨by decide, rfl⟩
  · exact absurd h (by revert d; decide)

theorem witness_SafeStatesStepWithoutFatalError_return : ∃ s : State,
    s.run = .fetch ∧ s.SafeToStep ∧ s.fetchInstr = .bbl 3 ∧ s.depth = 1 :=
  ⟨{ prog 0 [0xC3] with depth := 1 }, rfl, ⟨fun _ h => (nomatch h), fun _ _ => by decide⟩, rfl, rfl⟩

theorem witness_StepKeepsInvariant : ∃ s t : State, s.Inv ∧ step s = .next t :=
  ⟨{ prog 0 [0xE0] with acc := 7 }, _, by unfold State.Inv; decide, rfl⟩

theorem witness_StartGivesResetValuesAndImage :
    (List.replicate 4096 (0xD5 : Byte)).length ≤ 4096 ∧ ([] : List Byte).length ≤ 4096 :=
  ⟨by rw [List.length_replicate], by decide⟩

theorem witness_ResetMeetsInvariant : ∃ s : State, State.start Config.default [0xD5, 0x00, 0x01] = .ok s :=
  ⟨_, rfl⟩

theorem witness_LongImageIsALoadError : 4096 < (List.replicate 4097 (0xD5 : Byte)).length ∧
    ¬ 4096 < (List.replicate 4096 (0xD5 : Byte)).length := by
  rw [List.length_replicate, List.length_replicate]; decide

theorem witness_OnlyListedInstructionsWriteCarry : ∃ s t : State,
    writesCarry (.inc 0) = false ∧ exec (.inc 0) s = .next t ∧ s.cy = true :=
  ⟨{ withReg 0 15 with cy := true }, _, rfl, rfl, rfl⟩

theorem witness_OnlyListedInstructionsReadCarry : ∃ s t : State,
    readsCarry .iac = false ∧ exec .iac s = .next t ∧ s.cy = true :=
  ⟨{ State.reset with cy := true }, _, rfl, rfl, rfl⟩

theorem witness_ControlStateHasOnlyItsWriters_latch : ∃ s t : State,
    exec (.src 0) s = .next t ∧ t.latch ≠ s.latch := ⟨withReg 0 1, _, rfl, by decide⟩

theorem witness_ControlStateHasOnlyItsWriters_bank : ∃ s t : State,
    exec .dcl s = .next t ∧ t.bank ≠ s.bank := ⟨{ State.reset with acc := 1 }, _, rfl, by decide⟩

theorem witness_ControlStateHasOnlyItsWriters_depth : ∃ s t u : State,
    exec (.jms 4) s = .next t ∧ t.depth ≠ s.depth ∧ exec (.bbl 0) t = .next u ∧ u.depth ≠ t.depth :=
  ⟨State.reset, _, _, rfl, by decide, rfl, by decide⟩

theorem witness_ControlStateHasOnlyItsWriters_run : ∃ s t : State,
    exec .hlt s = .next t ∧ (t.run ≠ s.run ∨ t.reason ≠ s.reason) :=
  ⟨State.reset, _, rfl, .inl (by decide)⟩

theorem witness_RegistersHaveOnlyTheirWriters : ∃ s t : State,
    writesReg 3 (.fim 2 0xFF) = false ∧ writesReg 6 (.fim 2 0xFF) = false ∧
      exec (.fim 2 0xFF) s = .next t := ⟨State.reset, _, by decide, by decide, rfl⟩

theorem witness_AccumulatorHasOnlyItsWriters : ∃ s t : State,
    writesAcc .dcl = false ∧ exec .dcl s = .next t ∧ s.acc = 0xB :=
  ⟨{ State.reset with acc := 0xB }, _, rfl, rfl, rfl⟩

theorem witness_MemoriesChangeOnlyWhereWritten : ∃ s t : State, exec .wrm s = .next t ∧
    ¬ (Instr.wrm = .wrm ∧ (0 : BitVec 3) = s.bank ∧ (1 : Nibble) = s.sel ∧ (3 : Nibble) = s.off) ∧
    ¬ (statusWritten .wrm = some 0 ∧ (0 : BitVec 3) = s.bank ∧ (1 : Nibble) = s.sel) ∧
    ¬ (Instr.wrm = .wmp ∧ (0 : BitVec 3) = s.bank ∧ (0 : BitVec 2) = chipOf s.sel) ∧
    ¬ (Instr.wrm = .wrr ∧ (1 : Nibble) = s.sel) :=
  ⟨{ State.reset with latch := 0x12, acc := 7 }, _, rfl, by decide, by decide, by decide, by decide⟩

theorem witness_StackEntriesChangeOnlyByPush : ∃ s t : State,
    exec (.jms 4) s = .next t ∧ t.stack[2] ≠ s.stack[2] :=
  ⟨{ State.reset with depth := 2 }, _, rfl, by decide⟩

theorem witness_RunsNeverChangeProgramOrConfiguration : ∃ s u : State,
    State.after 2 s = some u ∧ s.readPM 0 = 0xE0 := ⟨prog 0 [0xE0, 0xE1], _, rfl, rfl⟩

theorem witness_OutputLatchesAreNeverRead : ∃ s t : State, exec .wrr s = .next t ∧ s.acc = 9 :=
  ⟨{ State.reset with latch := 0x40, acc := 9 }, _, rfl, rfl⟩

theorem witness_StaleStackEntriesAreUnobservable : ∃ (s t : State) (stack' : Vector Addr 3),
    (∀ k : Fin 3, k.val < s.depth.val → stack'[k.val] = s.stack[k.val]) ∧ step s = .next t ∧
      stack' ≠ s.stack :=
  ⟨{ prog 0 [0xC3] with depth := 1, stack := #v[0x102, 0, 0] }, _, #v[0x102, 7, 8],
    by decide, rfl, by decide⟩

theorem witness_FiveRotatesRestoreAccumulatorAndCarry : ∃ (i : Instr) (s s1 s2 s3 s4 s5 : State),
    (i = .ral ∨ i = .rar) ∧ exec i s = .next s1 ∧ exec i s1 = .next s2 ∧ exec i s2 = .next s3 ∧
      exec i s3 = .next s4 ∧ exec i s4 = .next s5 :=
  ⟨.rar, { State.reset with acc := 8 }, _, _, _, _, _, .inr rfl, rfl, rfl, rfl, rfl, rfl⟩

/-- The clauses of KBP: 0, a one-hot value and another value. -/
theorem witness_TransferAndDecimalResults : ∃ s t u : State, s.acc = 0 ∧ t.acc.toNat = 2 ^ 3 ∧
    u.acc ≠ 0 ∧ ∀ k < 4, u.acc.toNat ≠ 2 ^ k :=
  ⟨State.reset, { State.reset with acc := 8 }, { State.reset with acc := 3 }, rfl, rfl, by decide,
    by decide⟩

theorem witness_ComplementedCarryChainsSubtraction : ∃ s0 s1 s2 s3 : State, s0.cy = false ∧
    exec (.sub 3) s0 = .next s1 ∧ exec .cmc s1 = .next s2 ∧
    exec (.sub 2) { s2 with acc := 5 } = .next s3 :=
  ⟨{ (withReg 2 2).setReg 3 7 with acc := 2 }, _, _, _, rfl, rfl, rfl, rfl⟩

theorem witness_AddThenAdjustAddsDecimalDigits : ∃ (s s1 s2 : State) (r : Reg), s.acc.toNat ≤ 9 ∧
    (s.getReg r).toNat ≤ 9 ∧ exec (.add r) s = .next s1 ∧ exec .daa s1 = .next s2 :=
  ⟨{ withReg 3 9 with acc := 9, cy := true }, _, _, 3, by decide, by decide, rfl, rfl⟩

theorem witness_ExchangeTwiceRestores : ∃ s s1 s2 : State,
    exec (.xch 2) s = .next s1 ∧ exec (.xch 2) s1 = .next s2 :=
  ⟨{ withReg 2 8 with acc := 3 }, _, _, rfl, rfl⟩

/-- Also for `AddressSelectionResults`: the registers of the last pair. -/
theorem witness_IndirectJumpResult : ∃ (p : Pair) (hi lo : Reg),
    hi.val = 2 * p.val ∧ lo.val = 2 * p.val + 1 := ⟨7, 14, 15, rfl, rfl⟩

theorem witness_AddressSelectionResults : ∃ (p : Pair) (hi lo : Reg),
    hi.val = 2 * p.val ∧ lo.val = 2 * p.val + 1 := ⟨0, 0, 1, rfl, rfl⟩

theorem witness_CallPushesReturnAddress : ∃ s t : State,
    ¬ (s.cfg.trapInterceptor = true ∧ s.cfg.trapTarget = some 0x234) ∧ s.depth.val < 3 ∧
    ¬ (t.cfg.trapInterceptor = true ∧ t.cfg.trapTarget = some 0x234) ∧ t.depth.val = 3 :=
  ⟨{ State.reset with depth := 2 }, { State.reset with depth := 3 }, by decide, by decide, by decide,
    rfl⟩

theorem witness_ReturnPopsAndLoads : ∃ s t u : State, s.depth.val = (0 : Fin 3).val + 1 ∧
    t.depth.val = (2 : Fin 3).val + 1 ∧ u.depth.val = 0 :=
  ⟨{ State.reset with depth := 1 }, { State.reset with depth := 3 }, State.reset, rfl, rfl, rfl⟩

theorem witness_FatalErrorsChangeOnlyRunAndReason_overflow : ∃ s t : State,
    step s = .next t ∧ t.Fatal := ⟨{ prog 0 [0x50, 0x00] with depth := 3 }, _, rfl, rfl, .inl rfl⟩

theorem witness_FatalErrorsChangeOnlyRunAndReason_underflow : ∃ s t : State,
    step s = .next t ∧ t.Fatal := ⟨prog 0 [0xC0], _, rfl, rfl, .inr rfl⟩

theorem witness_InterceptorTakesOnlyItsTarget : ∃ s t : State, (∃ f, exec (.jms 4) s = .fault f) ∧
    (∀ a12, Instr.nop ≠ .jms a12) ∧ exec .nop s = .next t :=
  ⟨{ State.reset with cfg := { Config.default with trapTarget := some 4, trapInterceptor := true } }, _,
    ⟨_, rfl⟩, fun _ h => (nomatch h), rfl⟩

theorem witness_CallThenReturnComesBack : ∃ s t u : State, s.depth.val < 3 ∧
    exec (.jms 0x234) s = .next t ∧ exec (.bbl 3) t = .next u :=
  ⟨{ prog 0xFFE [] with depth := 2 }, _, _, by decide, rfl, rfl⟩

theorem witness_FourthNestedCallOverflows : State.reset.cfg.trapInterceptor = false ∧
    State.reset.depth = 0 ∧ State.reset.run = .fetch ∧
    ({ State.reset with depth := 3 } : State).cfg.trapInterceptor = false ∧
    ({ State.reset with depth := 3 } : State).depth.val = 3 := ⟨rfl, rfl, rfl, rfl, rfl⟩

theorem witness_SkipLoopRunsSixteenMinusValueTimes : ∃ s : State, s.run = .fetch ∧
    s.pc.toNat % 256 ≤ 253 ∧ s.readPM s.pc = BitVec.ofNat 8 (0x70 + (4 : Reg).val) ∧
    (s.readPM (s.pc + 1)).toNat = s.pc.toNat % 256 ∧ (0 : Nat) < 16 - (s.getReg 4).toNat ∧
    (3 : Reg) ≠ 4 :=
  ⟨{ withReg 4 15 with pc := 0x1FD, pm := placeBytes [] 0x1FD [0x74, 0xFD] },
    rfl, by decide, by decide, by decide, by decide, by decide⟩

/-- The last word of a page and the word before it, for JIN. -/
theorem witness_BranchesAtPageEndLandInNextPage_jin : ∃ s t s' t' : State,
    exec (.jin 0) s = .next t ∧ s.pc.toNat % 256 = 255 ∧
    exec (.jin 0) s' = .next t' ∧ s'.pc.toNat % 256 = 254 :=
  ⟨prog 0xFFF [], _, prog 0x0FE [], _, rfl, rfl, rfl, rfl⟩

theorem witness_BranchesAtPageEndLandInNextPage_isz : ∃ s t s' t' : State,
    exec (.isz 0 0x10) s = .next t ∧ (s.getReg 0).toNat ≠ 15 ∧ s.pc.toNat % 256 = 254 ∧
    exec (.isz 0 0x10) s' = .next t' ∧ (s'.getReg 0).toNat ≠ 15 ∧ s'.pc.toNat % 256 = 253 :=
  ⟨prog 0xFFE [], _, prog 0x0FD [], _, rfl, by decide, rfl, rfl, by decide, rfl⟩

theorem witness_BranchesAtPageEndLandInNextPage_jcn : ∃ s t s' t' : State,
    exec (.jcn 9 0x34) s = .next t ∧ t.pc ≠ s.pc + 2 ∧ s.pc.toNat % 256 = 255 ∧
    exec (.jcn 9 0x34) s' = .next t' ∧ t'.pc ≠ s'.pc + 2 ∧ s'.pc.toNat % 256 = 253 :=
  ⟨prog 0xFFF [], _, prog 0x0FD [], _, rfl, by decide, rfl, rfl, by decide, rfl⟩

theorem witness_StatusWriteResults :
    (Instr.wr3 = .wr0 ∧ (3 : Fin 4) = 0) ∨ (Instr.wr3 = .wr1 ∧ (3 : Fin 4) = 1) ∨
      (Instr.wr3 = .wr2 ∧ (3 : Fin 4) = 2) ∨ (Instr.wr3 = .wr3 ∧ (3 : Fin 4) = 3) := by decide

theorem witness_StatusReadResults :
    (Instr.rd3 = .rd0 ∧ (3 : Fin 4) = 0) ∨ (Instr.rd3 = .rd1 ∧ (3 : Fin 4) = 1) ∨
      (Instr.rd3 = .rd2 ∧ (3 : Fin 4) = 2) ∨ (Instr.rd3 = .rd3 ∧ (3 : Fin 4) = 3) := by decide

theorem witness_PortResults : ∃ (s : State) (k : Fin 16), k.val = s.sel.toNat ∧ k = 15 :=
  ⟨{ State.reset with latch := 0xF0 }, 15, rfl, rfl⟩

theorem witness_FetchIndirectResult : ∃ (s : State) (a : Addr), a.toNat =
    (s.pc.toNat + 1) % 4096 / 256 * 256 + 16 * (s.getReg 0).toNat + (s.getReg 1).toNat :=
  ⟨{ withReg 1 2 with pc := 0x0FF }, 0x102, rfl⟩

theorem witness_LatchedNibbleIsReadBack_latch : ∃ s u : State, State.after 1 s = some u ∧
    (∀ k < 1, ∀ v, State.after k s = some v → ∀ p, v.fetchInstr ≠ .src p) ∧ s.latch = 0x23 := by
  refine ⟨{ prog 0 [0xFD] with latch := 0x23 }, _, rfl, ?_, rfl⟩
  intro k hk v hv
  obtain rfl : k = 0 := by omega
  cases hv
  decide

theorem witness_LatchedNibbleIsReadBack : ∃ s t u : State, exec .wrm s = .next t ∧
    State.after 1 t = some u ∧
    (∀ k < 1, ∀ v, State.after k t = some v →
      (∀ p, v.fetchInstr ≠ .src p) ∧ ¬ (v.fetchInstr = .wrm ∧ v.bank = s.bank)) ∧
    u.bank = s.bank ∧ s.acc = 7 := by
  refine ⟨{ prog 0 [0xE0, 0x62] with acc := 7 }, _, _, rfl, rfl, ?_, rfl, rfl⟩
  intro k hk v hv
  obtain rfl : k = 0 := by omega
  cases hv
  exact ⟨by decide, by decide⟩

theorem witness_SwitchingBanksKeepsData : ∃ (s s1 s2 s3 : State) (a : Nibble),
    exec .dcl s = .next s1 ∧ s1.bank ≠ s.bank ∧ exec .wrm s1 = .next s2 ∧
    a.toNat % 8 = s.bank.toNat ∧ exec .dcl { s2 with acc := a } = .next s3 :=
  ⟨{ State.reset with acc := 1 }, _, _, _, 8, rfl, by decide, rfl, rfl, rfl⟩

end Sys2Proof.Tests
end

section
/-! SUPPORT. Every instruction as one effect and one next pc. An effect is what the instruction writes
besides pc, with its operands already read: `effectOf` and `nextPc` are all that an instruction reads,
`Effect.apply` is all that it writes. `exec_eq` says that the model's `exec` is their composition. -/

namespace Sys2Proof.Machine

/-- What an instruction writes besides pc, one constructor per combination of state elements. -/
inductive Effect where
  | keep
  | acc (v : Nibble)
  | cy (c : Bool)
  | accCy (r : Nibble × Bool)
  | reg (r : Reg) (v : Nibble)
  | accReg (a : Nibble) (r : Reg) (v : Nibble)
  | pair (p : Pair) (w : Byte)
  | latch (w : Byte)
  | bank (b : BitVec 3)
  | data (b : BitVec 3) (e o v : Nibble)
  | status (b : BitVec 3) (e : Nibble) (k : Fin 4) (v : Nibble)
  | ramPort (b : BitVec 3) (c : BitVec 2) (v : Nibble)
  | romPort (e v : Nibble)
  | push (k : Fin 3) (ret : Addr)
  | pop (k : Fin 3) (d : Nibble)
  | halt (r : HaltReason)

/-- The state with an effect written: a push fills entry `k` and makes the depth `k + 1`, a pop leaves
depth `k` and loads A (10_state.md R29). -/
def Effect.apply : Effect → State → State
  | .keep, s => s
  | .acc v, s => s.setAcc v
  | .cy c, s => s.setCy c
  | .accCy r, s => s.setAccCy r
  | .reg r v, s => s.setReg r v
  | .accReg a r v, s => (s.setAcc a).setReg r v
  | .pair p w, s => s.setPair p w
  | .latch w, s => s.setLatch w
  | .bank b, s => s.setBank b
  | .data b e o v, s => s.writeDM b e o v
  | .status b e k v, s => s.writeSM b e k v
  | .ramPort b c v, s => s.setRamPort b c v
  | .romPort e v, s => s.setRomPort e v
  | .push k ret, s => { s with stack := s.stack.set k.val ret, depth := k.succ }
  | .pop k d, s => { s with depth := k.castSucc, acc := d }
  | .halt r, s => s.enterHalted r

/-- A JMS pushes where the stack has room and is a StackOverflow where it is full (44_control_flow.md
R225). -/
def callEffect (s : State) : Effect :=
  if h : s.depth.val < 3 then .push ⟨s.depth.val, h⟩ (s.nxt 2) else .halt .stackOverflow

/-- A BBL pops where the stack has an entry and is a StackUnderflow where it is empty
(44_control_flow.md R226). -/
def returnEffect (d : Nibble) (s : State) : Effect :=
  if h : 0 < s.depth.val then .pop ⟨s.depth.val - 1, by omega⟩ d else .halt .stackUnderflow

/-- The effect of an instruction in the state it finds. -/
def effectOf : Instr → State → Effect
  | .nop, _ | .unassigned02 _, _ | .unassigned04 _, _ | .unassigned08 _, _ | .unassignedFE _, _
  | .wpm, _ | .jun _, _ | .jcn _ _, _ | .jin _, _ => .keep
  | .hlt, _ => .halt .haltInstruction
  | .fim p w, _ => .pair p w
  | .src p, s => .latch (s.getPair p)
  | .fin p, s => .pair p (s.readPM s.tableAddr)
  | .jms _, s => callEffect s
  | .bbl d, s => returnEffect d s
  | .inc r, s | .isz r _, s => .reg r (incrementLaw (s.getReg r))
  | .add r, s => .accCy (addLaw s.acc (s.getReg r) s.cy)
  | .sub r, s => .accCy (subLaw s.acc (s.getReg r) s.cy)
  | .ld r, s => .acc (s.getReg r)
  | .xch r, s => .accReg (s.getReg r) r s.acc
  | .ldm d, _ => .acc d
  | .wrm, s => .data s.bank s.sel s.off s.acc
  | .wmp, s => .ramPort s.bank (chipOf s.sel) s.acc
  | .wrr, s => .romPort s.sel s.acc
  | .wr0, s => .status s.bank s.sel 0 s.acc
  | .wr1, s => .status s.bank s.sel 1 s.acc
  | .wr2, s => .status s.bank s.sel 2 s.acc
  | .wr3, s => .status s.bank s.sel 3 s.acc
  | .sbm, s => .accCy (subLaw s.acc s.currentNibble s.cy)
  | .rdm, s => .acc s.currentNibble
  | .rdr, s => .acc (s.romInput s.sel)
  | .adm, s => .accCy (addLaw s.acc s.currentNibble s.cy)
  | .rd0, s => .acc (s.readSM s.bank s.sel 0)
  | .rd1, s => .acc (s.readSM s.bank s.sel 1)
  | .rd2, s => .acc (s.readSM s.bank s.sel 2)
  | .rd3, s => .acc (s.readSM s.bank s.sel 3)
  | .clb, _ => .accCy (0, false)
  | .clc, _ => .cy false
  | .iac, s => .accCy (addLaw s.acc 1 false)
  | .cmc, s => .cy (!s.cy)
  | .cma, s => .acc (complementLaw s.acc)
  | .ral, s => .accCy (rotateLeft s.acc s.cy)
  | .rar, s => .accCy (rotateRight s.acc s.cy)
  | .tcc, s => .accCy (carryNibble s.cy, false)
  | .dac, s => .accCy (decrementLaw s.acc)
  | .tcs, s => .accCy (carrySubtractNibble s.cy, false)
  | .stc, _ => .cy true
  | .daa, s => .accCy (decimalAdjust s.acc s.cy)
  | .kbp, s => .acc (keyboardLaw s.acc)
  | .dcl, s => .bank (bankOf s.acc)

/-- The pc an instruction leaves: pc itself after a stack error (60_exceptions.md R252). -/
def nextPc : Instr → State → Addr
  | .jun a12, _ => a12
  | .jcn c a8, s => if jumpCondition c s.acc s.cy then pageTarget (s.nxt 2) a8 else s.nxt 2
  | .isz r a8, s =>
    if incrementLaw (s.getReg r) ≠ 0#4 then pageTarget (s.nxt 2) a8 else s.nxt 2
  | .jin p, s => pageTarget (s.nxt 1) (s.getPair p)
  | .jms a12, s => if s.depth.val < 3 then a12 else s.pc
  | .bbl _, s => if h : 0 < s.depth.val then s.stack[s.depth.val - 1] else s.pc
  | i, s => s.nxt i.words

/-- Whether the host takes the instruction instead of the block (60_exceptions.md R263). -/
def intercepted : Instr → State → Bool
  | .jms a12, s => s.trapped a12
  | _, _ => false

theorem execJms_eq (a12 : Addr) (s : State) :
    execJms a12 s = if s.trapped a12 then .fault (.trap s.pc)
      else .next (((callEffect s).apply s).jump (nextPc (.jms a12) s)) := by
  rcases execJms_cases a12 s with ⟨ht, he⟩ | ⟨ht, hd, he⟩ | ⟨ht, hd, he⟩
  · simp [ht, he]
  · have hn : ¬ s.depth.val < 3 := by omega
    simp only [ht, he, callEffect, nextPc, dif_neg hn, if_neg hn]
    rfl
  · simp only [ht, he, callEffect, nextPc, dif_pos hd, if_pos hd]
    rfl

theorem execBbl_eq (d : Nibble) (s : State) :
    execBbl d s = .next (((returnEffect d s).apply s).jump (nextPc (.bbl d) s)) := by
  rcases execBbl_cases d s with ⟨hd, he⟩ | ⟨hd, he⟩
  · have hn : ¬ 0 < s.depth.val := by omega
    simp only [he, returnEffect, nextPc, dif_neg hn]
    rfl
  · simp only [he, returnEffect, nextPc, dif_pos hd]
    rfl

/-- Every meaning is its effect followed by its next pc, and only an intercepted JMS has none. -/
theorem exec_eq (i : Instr) (s : State) :
    exec i s = if intercepted i s then .fault (.trap s.pc)
      else .next (((effectOf i s).apply s).jump (nextPc i s)) := by
  cases i with
  | jms a12 => exact execJms_eq a12 s
  | bbl d => exact execBbl_eq d s
  | jcn c a8 => exact execJcn_eq c a8 s
  | isz r a8 => exact execIsz_eq r a8 s
  | _ => rfl

theorem exec_eq_next {i : Instr} {s t : State} :
    exec i s = .next t ↔
      intercepted i s = false ∧ ((effectOf i s).apply s).jump (nextPc i s) = t := by
  rw [exec_eq]
  cases intercepted i s <;> simp

end Sys2Proof.Machine
end

section
/-! SUPPORT. What each effect leaves unchanged, and which instructions have the effects that do write. -/

namespace Sys2Proof.Machine

/-! ### Carry, accumulator and registers: the classes of Safety.lean, read off the effect -/

/-- The effects that write CY. -/
def Effect.setsCy : Effect → Bool
  | .cy _ | .accCy _ => true
  | _ => false

/-- The effects that write A. -/
def Effect.setsAcc : Effect → Bool
  | .acc _ | .accCy _ | .accReg _ _ _ | .pop _ _ => true
  | _ => false

/-- The effects that write register `q`. -/
def Effect.setsReg (q : Reg) : Effect → Bool
  | .reg r _ | .accReg _ r _ => decide (q = r)
  | .pair p _ => decide (q.val = 2 * p.val ∨ q.val = 2 * p.val + 1)
  | _ => false

theorem Effect.apply_cy {e : Effect} (h : e.setsCy = false) (s : State) :
    (e.apply s).cy = s.cy := by
  cases e with
  | cy | accCy => cases h
  | _ => rfl

theorem Effect.apply_acc {e : Effect} (h : e.setsAcc = false) (s : State) :
    (e.apply s).acc = s.acc := by
  cases e with
  | acc | accCy | accReg | pop => cases h
  | _ => rfl

theorem Effect.apply_getReg {e : Effect} {q : Reg} (h : e.setsReg q = false) (s : State) :
    (e.apply s).getReg q = s.getReg q := by
  cases e with
  | reg r v => exact State.getReg_setReg_of_ne s v (of_decide_eq_false h)
  | accReg a r v => exact State.getReg_setReg_of_ne (s.setAcc a) v (of_decide_eq_false h)
  | pair p w =>
    have hq := of_decide_eq_false h
    have hlow : q ≠ pairLow p := fun he => hq (.inr (congrArg Fin.val he))
    have hhigh : q ≠ pairHigh p := fun he => hq (.inl (congrArg Fin.val he))
    simp [Effect.apply, State.getReg_setPair, hlow, hhigh]
  | _ => rfl

theorem effectOf_setsCy (i : Instr) (s : State) : (effectOf i s).setsCy = writesCarry i := by
  cases i with
  | jms a12 => simp only [effectOf, callEffect]; split <;> rfl
  | bbl d => simp only [effectOf, returnEffect]; split <;> rfl
  | _ => rfl

theorem effectOf_setsReg (q : Reg) (i : Instr) (s : State) :
    (effectOf i s).setsReg q = writesReg q i := by
  cases i with
  | jms a12 => simp only [effectOf, callEffect]; split <;> rfl
  | bbl d => simp only [effectOf, returnEffect]; split <;> rfl
  | _ => rfl

/-- A BBL that meets an empty stack writes no A, so this is no equality. -/
theorem effectOf_setsAcc {i : Instr} (h : writesAcc i = false) (s : State) :
    (effectOf i s).setsAcc = false := by
  cases i with
  | jms a12 => simp only [effectOf, callEffect]; split <;> rfl
  | add | sub | adm | sbm | iac | dac | ral | rar | clb | cma | tcc | tcs | daa | kbp | rdm | rd0 | rd1
  | rd2 | rd3 | rdr | ldm | ld | xch | bbl => cases h
  | _ => rfl

/-! ### Control state and stack: who may have the effect, and what it carries then -/

/-- The instructions that may have an effect on the control state in `s` (10_state.md R35), the stack
index a push or a pop then has, and that no halt has the reason RUNNING. -/
def Effect.IssuedBy (i : Instr) (s : State) : Effect → Prop
  | .latch _ => ∃ p, i = .src p
  | .bank _ => i = .dcl
  | .push k _ => k.val = s.depth.val ∧ ∃ a12, i = .jms a12
  | .pop k _ => k.val + 1 = s.depth.val ∧ ∃ d, i = .bbl d
  | .halt r => r ≠ .running ∧ (i = .hlt ∨ (∃ a12, i = .jms a12) ∨ ∃ d, i = .bbl d)
  | _ => True

theorem callEffect_issuedBy (a12 : Addr) (s : State) : (callEffect s).IssuedBy (.jms a12) s := by
  unfold callEffect
  split
  · exact ⟨rfl, a12, rfl⟩
  · exact ⟨nofun, .inr (.inl ⟨a12, rfl⟩)⟩

theorem returnEffect_issuedBy (d : Nibble) (s : State) :
    (returnEffect d s).IssuedBy (.bbl d) s := by
  unfold returnEffect
  split
  next hd => exact ⟨Nat.sub_add_cancel hd, d, rfl⟩
  next => exact ⟨nofun, .inr (.inr ⟨d, rfl⟩)⟩

theorem effectOf_issuedBy (i : Instr) (s : State) : (effectOf i s).IssuedBy i s := by
  cases i with
  | src p => exact ⟨p, rfl⟩
  | dcl => exact rfl
  | hlt => exact ⟨nofun, .inl rfl⟩
  | jms a12 => exact callEffect_issuedBy a12 s
  | bbl d => exact returnEffect_issuedBy d s
  | _ => trivial

section
variable {e : Effect} {i : Instr} {s : State} (he : e.IssuedBy i s)
include he

theorem Effect.IssuedBy.of_latch_ne (h : (e.apply s).latch ≠ s.latch) : ∃ p, i = .src p := by
  cases e with
  | latch w => exact he
  | _ => exact absurd rfl h

theorem Effect.IssuedBy.of_bank_ne (h : (e.apply s).bank ≠ s.bank) : i = .dcl := by
  cases e with
  | bank b => exact he
  | _ => exact absurd rfl h

theorem Effect.IssuedBy.of_depth_ne (h : (e.apply s).depth ≠ s.depth) :
    (∃ a12, i = .jms a12) ∨ ∃ d, i = .bbl d := by
  cases e with
  | push k ret => exact .inl he.2
  | pop k d => exact .inr he.2
  | _ => exact absurd rfl h

theorem Effect.IssuedBy.of_run_or_reason_ne
    (h : (e.apply s).run ≠ s.run ∨ (e.apply s).reason ≠ s.reason) :
    (e.apply s).run = .halted ∧ (i = .hlt ∨ (∃ a12, i = .jms a12) ∨ ∃ d, i = .bbl d) := by
  cases e with
  | halt r => exact ⟨rfl, he.2⟩
  | _ => exact absurd h (by rintro (h | h) <;> exact h rfl)

theorem Effect.IssuedBy.of_stack_ne {k : Fin 3} (h : (e.apply s).stack[k.val] ≠ s.stack[k.val]) :
    k.val = s.depth.val ∧ ∃ a12, i = .jms a12 := by
  cases e with
  | push j ret =>
    obtain ⟨hj, hi⟩ := he
    have hkj : j.val = k.val := by
      by_contra hne
      exact h (Vector.getElem_set_ne j.isLt k.isLt hne)
    exact ⟨hkj ▸ hj, hi⟩
  | _ => exact absurd rfl h

/-- An effect keeps the invariant: the two memory writes stay inside their spaces, and a halt changes
run and reason together. -/
theorem Effect.IssuedBy.apply_inv (hs : s.Inv) : (e.apply s).Inv := by
  obtain ⟨hpm, hdm, hsm, hrun, hreason⟩ := hs
  cases e with
  | data b f o v => exact ⟨hpm, State.writeDM_dm_wf b f o v hdm, hsm, hrun, hreason⟩
  | status b f k v => exact ⟨hpm, hdm, State.writeSM_sm_wf b f k v hsm, hrun, hreason⟩
  | halt r => exact ⟨hpm, hdm, hsm, nofun, fun h => absurd h he.1, nofun⟩
  | _ => exact ⟨hpm, hdm, hsm, hrun, hreason⟩

end

end Sys2Proof.Machine
end

section
/-! SUPPORT. What an instruction reads: two states that differ only in an element the instruction does
not read give the same effect and the same next pc, arm by arm of `effectOf` and `nextPc`. -/

namespace Sys2Proof.Machine

/-- Where an instruction reads the same from two states, it does to the second what it does to the
first. -/
theorem exec_of_same_reads {i : Instr} {s s' t : State} (h : exec i s = .next t)
    (hint : intercepted i s' = intercepted i s) (heff : effectOf i s' = effectOf i s)
    (hpc : nextPc i s' = nextPc i s) :
    exec i s' = .next (((effectOf i s).apply s').jump (nextPc i s)) :=
  exec_eq_next.2 ⟨hint.trans (exec_eq_next.1 h).1, by rw [heff, hpc]⟩

/-! ### Carry -/

theorem intercepted_setCy (i : Instr) (s : State) (c : Bool) :
    intercepted i (s.setCy c) = intercepted i s := by
  cases i <;> rfl

theorem effectOf_setCy {i : Instr} (h : readsCarry i = false) (s : State) (c : Bool) :
    effectOf i (s.setCy c) = effectOf i s := by
  cases i with
  | add | sub | adm | sbm | ral | rar | cmc | tcc | tcs | daa => cases h
  | _ => rfl

theorem nextPc_setCy {i : Instr} (h : readsCarry i = false) (s : State) (c : Bool) :
    nextPc i (s.setCy c) = nextPc i s := by
  cases i with
  | jcn => cases h
  | _ => rfl

/-- An effect that writes CY forgets what CY was; any other keeps it. -/
theorem Effect.apply_setCy (e : Effect) (s : State) (c : Bool) :
    e.apply (s.setCy c) = if e.setsCy then e.apply s else (e.apply s).setCy c := by
  cases e <;> rfl

/-! ### Output latches -/

/-- `s` with other output latches. -/
def State.withPorts (s : State) (ram : Vector (Vector Nibble 4) 8) (rom : Vector Nibble 16) : State :=
  { s with ramPort := ram, romPort := rom }

section
variable (s : State) (ram : Vector (Vector Nibble 4) 8) (rom : Vector Nibble 16)

theorem intercepted_withPorts (i : Instr) :
    intercepted i (s.withPorts ram rom) = intercepted i s := by
  cases i <;> rfl

theorem effectOf_withPorts (i : Instr) : effectOf i (s.withPorts ram rom) = effectOf i s := by
  cases i <;> rfl

theorem nextPc_withPorts (i : Instr) : nextPc i (s.withPorts ram rom) = nextPc i s := by
  cases i <;> rfl

theorem Effect.apply_withPorts (e : Effect) :
    (e.apply (s.withPorts ram rom)).withPorts (e.apply s).ramPort (e.apply s).romPort =
      e.apply s := by
  cases e <;> rfl

end

/-! ### Stack entries at or above the depth -/

/-- `s` with another stack of the same depth. -/
def State.withStack (s : State) (stack' : Vector Addr 3) : State := { s with stack := stack' }

/-- The stack `stack'` holds the entries of `s` below its depth. -/
def State.AgreesBelowDepth (s : State) (stack' : Vector Addr 3) : Prop :=
  ∀ k : Fin 3, k.val < s.depth.val → stack'[k.val] = s.stack[k.val]

section
variable (s : State) (stack' : Vector Addr 3)

theorem fetchInstr_withStack : (s.withStack stack').fetchInstr = s.fetchInstr := rfl

theorem intercepted_withStack (i : Instr) :
    intercepted i (s.withStack stack') = intercepted i s := by
  cases i <;> rfl

theorem effectOf_withStack (i : Instr) : effectOf i (s.withStack stack') = effectOf i s := by
  cases i <;> rfl

theorem Effect.apply_withStack (e : Effect) :
    (e.apply (s.withStack stack')).withStack (e.apply s).stack = e.apply s := by
  cases e <;> rfl

end

/-- The one read of a stack entry is BBL's, below the depth. -/
theorem nextPc_withStack (i : Instr) {s : State} {stack' : Vector Addr 3}
    (h : s.AgreesBelowDepth stack') : nextPc i (s.withStack stack') = nextPc i s := by
  cases i with
  | bbl d =>
    refine dite_congr rfl (fun hd => ?_) (fun _ => rfl)
    exact h ⟨s.depth.val - 1, by omega⟩ (Nat.sub_lt hd Nat.one_pos)
  | _ => rfl

/-- A push fills the one entry that comes below the depth, a pop takes one away. -/
theorem Effect.IssuedBy.apply_agreesBelowDepth {e : Effect} {i : Instr} {s : State}
    {stack' : Vector Addr 3} (he : e.IssuedBy i s) (h : s.AgreesBelowDepth stack') :
    (e.apply s).AgreesBelowDepth (e.apply (s.withStack stack')).stack := by
  intro k hk
  cases e with
  | push j ret =>
    obtain ⟨hj, -⟩ := he
    simp only [Effect.apply, State.withStack, Vector.getElem_set, Fin.val_succ] at hk ⊢
    split
    · rfl
    · exact h k (by omega)
  | pop j d =>
    obtain ⟨hj, -⟩ := he
    simp only [Effect.apply, Fin.val_castSucc] at hk
    exact h k (by omega)
  | _ => exact h k hk

end Sys2Proof.Machine
end

section
/-! SUPPORT. The state after `start`. -/

namespace Sys2Proof.Machine

theorem start_eq_ok {cfg : Config} {image : List Byte} {s : State} :
    State.start cfg image = .ok s ↔
      image.length ≤ progSize ∧ { State.reset with pm := imageCells 0 image, cfg := cfg } = s := by
  unfold State.start loadImage
  by_cases h : image.length ≤ progSize <;> simp [h]

theorem State.reset_inv : State.reset.Inv := by
  obtain ⟨hpm, hdm, hsm⟩ := State.reset_memories_wf
  exact ⟨hpm, hdm, hsm, nofun, iff_of_true rfl rfl⟩

theorem start_inv {cfg : Config} {image : List Byte} {s : State}
    (h : State.start cfg image = .ok s) : s.Inv := by
  obtain ⟨hlen, rfl⟩ := start_eq_ok.1 h
  obtain ⟨-, hrest⟩ := State.reset_inv
  exact ⟨imageCells_wfFrom 0 image (by omega), hrest⟩

theorem State.readDM_of_dm_nil {s : State} (h : s.dm = []) (b : BitVec 3) (e o : Nibble) :
    s.readDM b e o = 0 := by
  simp [State.readDM, h, cellNibble, highNibble, lowNibble]

theorem State.readSM_of_sm_nil {s : State} (h : s.sm = []) (b : BitVec 3) (e : Nibble) (k : Fin 4) :
    s.readSM b e k = 0 := by
  simp [State.readSM, h]

theorem State.readPM_of_imageCells {s : State} {image : List Byte} (h : s.pm = imageCells 0 image)
    (a : Addr) : s.readPM a = image.getD a.toNat 0 := by
  simp [State.readPM, h, imageCells_read]

theorem State.getReg_of_replicate {s : State} (h : s.x = Vector.replicate 16 0) (r : Reg) :
    s.getReg r = 0 := by
  simp [State.getReg, h]

theorem State.getRamPort_of_replicate {s : State}
    (h : s.ramPort = Vector.replicate 8 (Vector.replicate 4 0)) (b : BitVec 3) (c : BitVec 2) :
    s.getRamPort b c = 0 := by
  simp [State.getRamPort, h]

theorem State.getRomPort_of_replicate {s : State} (h : s.romPort = Vector.replicate 16 0)
    (e : Nibble) : s.getRomPort e = 0 := by
  simp [State.getRomPort, h]

end Sys2Proof.Machine
end

section
/-! The statements of 10_state.md. -/

namespace Sys2Proof.Machine

/-- Settles O13: the next state is one effect of the fetched instruction, and effects keep the
invariant. -/
theorem stepKeepsInvariant : Obligations.StepKeepsInvariant := by
  intro s t hs hstep
  obtain ⟨-, hexec⟩ := step_eq_next.1 hstep
  obtain ⟨-, rfl⟩ := exec_eq_next.1 hexec
  exact (effectOf_issuedBy s.fetchInstr s).apply_inv hs

/-- Settles O14. -/
theorem resetMeetsInvariant : Obligations.ResetMeetsInvariant :=
  ⟨fun _ _ _ => start_inv, rfl, State.reset_inv⟩

/-- Settles O15, element by element from the reset record and the law of the loaded image. -/
theorem startGivesResetValuesAndImage : Obligations.StartGivesResetValuesAndImage := by
  intro cfg image hlen
  refine ⟨_, start_eq_ok.2 ⟨hlen, rfl⟩, State.getReg_of_replicate rfl, rfl, rfl, rfl, ?_, rfl, rfl,
    rfl, rfl, rfl, State.readDM_of_dm_nil rfl, State.readSM_of_sm_nil rfl,
    State.getRamPort_of_replicate rfl, State.getRomPort_of_replicate rfl,
    State.readPM_of_imageCells rfl, rfl⟩
  intro k
  exact Vector.getElem_replicate k.isLt

/-- Settles O17: the effects that write CY are those of R25's writers. -/
theorem onlyListedInstructionsWriteCarry : Obligations.OnlyListedInstructionsWriteCarry := by
  intro i s t hi hexec
  obtain ⟨-, rfl⟩ := exec_eq_next.1 hexec
  exact Effect.apply_cy ((effectOf_setsCy i s).trans hi) s

/-- Settles O18: without a read of CY the effect and the next pc are the same from both states, and the
effect then writes CY in both or in neither. -/
theorem onlyListedInstructionsReadCarry : Obligations.OnlyListedInstructionsReadCarry := by
  intro i s t c hi hexec
  have hexec' := exec_of_same_reads hexec (intercepted_setCy i s c) (effectOf_setCy hi s c)
    (nextPc_setCy hi s c)
  obtain ⟨-, rfl⟩ := exec_eq_next.1 hexec
  refine ⟨_, hexec', ?_⟩
  rw [Effect.apply_setCy]
  cases hset : (effectOf i s).setsCy with
  | true => exact ⟨rfl, .inl rfl⟩
  | false => exact ⟨rfl, .inr ⟨rfl, Effect.apply_cy hset s⟩⟩

/-- Settles O19, clause by clause from the instructions that may have each effect. -/
theorem controlStateHasOnlyItsWriters : Obligations.ControlStateHasOnlyItsWriters := by
  intro i s t hexec
  obtain ⟨-, rfl⟩ := exec_eq_next.1 hexec
  have he := effectOf_issuedBy i s
  exact ⟨he.of_latch_ne, he.of_bank_ne, he.of_depth_ne, he.of_run_or_reason_ne⟩

/-- Settles O20: the effects that write register q are those of q's writers. -/
theorem registersHaveOnlyTheirWriters : Obligations.RegistersHaveOnlyTheirWriters := by
  intro i s t q hi hexec
  obtain ⟨-, rfl⟩ := exec_eq_next.1 hexec
  exact Effect.apply_getReg ((effectOf_setsReg q i s).trans hi) s

/-- Settles O21: an instruction outside the list has no effect that writes A. -/
theorem accumulatorHasOnlyItsWriters : Obligations.AccumulatorHasOnlyItsWriters := by
  intro i s t hi hexec
  obtain ⟨-, rfl⟩ := exec_eq_next.1 hexec
  exact Effect.apply_acc (effectOf_setsAcc hi s) s

/-- Settles O23: the one effect on a stack entry is JMS's push at the depth. -/
theorem stackEntriesChangeOnlyByPush : Obligations.StackEntriesChangeOnlyByPush := by
  intro i s t k hexec hne
  obtain ⟨-, rfl⟩ := exec_eq_next.1 hexec
  exact (effectOf_issuedBy i s).of_stack_ne hne

/-- Settles O25: the latches enter neither the effect nor the next pc, only the state written to. -/
theorem outputLatchesAreNeverRead : Obligations.OutputLatchesAreNeverRead := by
  intro i s t ram rom hexec
  have hexec' := exec_of_same_reads hexec (intercepted_withPorts s ram rom i)
    (effectOf_withPorts s ram rom i) (nextPc_withPorts s ram rom i)
  obtain ⟨-, rfl⟩ := exec_eq_next.1 hexec
  exact ⟨_, hexec', congrArg (State.jump · _) (Effect.apply_withPorts s ram rom (effectOf i s))⟩

/-- Settles O26: the only stack entry read is BBL's, below the depth, and a push overwrites the entry
it brings below the depth. -/
theorem staleStackEntriesAreUnobservable : Obligations.StaleStackEntriesAreUnobservable := by
  intro s t stack' hagree hstep
  obtain ⟨hrun, hexec⟩ := step_eq_next.1 hstep
  have hexec' := exec_of_same_reads hexec (intercepted_withStack s stack' s.fetchInstr)
    (effectOf_withStack s stack' s.fetchInstr) (nextPc_withStack s.fetchInstr hagree)
  have hstep' := step_of_fetch (s := s.withStack stack') hrun
  rw [fetchInstr_withStack, hexec'] at hstep'
  obtain ⟨-, rfl⟩ := exec_eq_next.1 hexec
  exact ⟨_, hstep',
    congrArg (State.jump · _) (Effect.apply_withStack s stack' (effectOf s.fetchInstr s)),
    (effectOf_issuedBy s.fetchInstr s).apply_agreesBelowDepth hagree⟩

end Sys2Proof.Machine
end

section
/-! SUPPORT. Which instruction has an effect on memory or an output latch, and at which address, and
that no effect is on program memory or the configuration. -/

namespace Sys2Proof.Machine

/-- Where an effect writes memory or an output latch, its instruction and the address it has in `s`
(41_memory_interface.md R133, R135 to R138, R143, R144). -/
def Effect.StoredBy (i : Instr) (s : State) : Effect → Prop
  | .data b e o _ => i = .wrm ∧ b = s.bank ∧ e = s.sel ∧ o = s.off
  | .status b e k _ => statusWritten i = some k ∧ b = s.bank ∧ e = s.sel
  | .ramPort b c _ => i = .wmp ∧ b = s.bank ∧ c = chipOf s.sel
  | .romPort e _ => i = .wrr ∧ e = s.sel
  | _ => True

theorem effectOf_storedBy (i : Instr) (s : State) : (effectOf i s).StoredBy i s := by
  cases i with
  | wrm => exact ⟨rfl, rfl, rfl, rfl⟩
  | wr0 | wr1 | wr2 | wr3 | wmp => exact ⟨rfl, rfl, rfl⟩
  | wrr => exact ⟨rfl, rfl⟩
  | jms a12 => simp only [effectOf, callEffect]; split <;> trivial
  | bbl d => simp only [effectOf, returnEffect]; split <;> trivial
  | _ => trivial

section
variable {eff : Effect} {i : Instr} {s : State} (he : eff.StoredBy i s)
include he

theorem Effect.StoredBy.apply_readDM {b : BitVec 3} {e o : Nibble}
    (h : ¬ (i = .wrm ∧ b = s.bank ∧ e = s.sel ∧ o = s.off)) :
    (eff.apply s).readDM b e o = s.readDM b e o := by
  cases eff with
  | data b' e' o' v =>
    obtain ⟨hi, rfl, rfl, rfl⟩ := he
    exact (State.readDM_writeDM ..).trans (if_neg fun ha => h ⟨hi, ha⟩)
  | _ => rfl

theorem Effect.StoredBy.apply_readSM {b : BitVec 3} {e : Nibble} {k : Fin 4}
    (h : ¬ (statusWritten i = some k ∧ b = s.bank ∧ e = s.sel)) :
    (eff.apply s).readSM b e k = s.readSM b e k := by
  cases eff with
  | status b' e' k' v =>
    obtain ⟨hi, rfl, rfl⟩ := he
    refine (State.readSM_writeSM ..).trans (if_neg ?_)
    rintro ⟨hb, hsel, rfl⟩
    exact h ⟨hi, hb, hsel⟩
  | _ => rfl

theorem Effect.StoredBy.apply_getRamPort {b : BitVec 3} {c : BitVec 2}
    (h : ¬ (i = .wmp ∧ b = s.bank ∧ c = chipOf s.sel)) :
    (eff.apply s).getRamPort b c = s.getRamPort b c := by
  cases eff with
  | ramPort b' c' v =>
    obtain ⟨hi, rfl, rfl⟩ := he
    exact (State.getRamPort_setRamPort ..).trans (if_neg fun ha => h ⟨hi, ha⟩)
  | _ => rfl

theorem Effect.StoredBy.apply_getRomPort {e : Nibble} (h : ¬ (i = .wrr ∧ e = s.sel)) :
    (eff.apply s).getRomPort e = s.getRomPort e := by
  cases eff with
  | romPort e' v =>
    obtain ⟨hi, rfl⟩ := he
    exact (State.getRomPort_setRomPort ..).trans (if_neg fun ha => h ⟨hi, ha⟩)
  | _ => rfl

end

@[simp] theorem Effect.apply_pm (eff : Effect) (s : State) : (eff.apply s).pm = s.pm := by
  cases eff <;> rfl

@[simp] theorem Effect.apply_cfg (eff : Effect) (s : State) : (eff.apply s).cfg = s.cfg := by
  cases eff <;> rfl

theorem exec_keeps_pm_cfg {i : Instr} {s t : State} (h : exec i s = .next t) :
    t.pm = s.pm ∧ t.cfg = s.cfg := by
  obtain ⟨-, rfl⟩ := exec_eq_next.1 h
  exact ⟨Effect.apply_pm .., Effect.apply_cfg ..⟩

/-- What every step keeps holds at the end of a run (40_execution.md R120). -/
theorem State.after_induction {P : State → Prop} (hstep : ∀ s t, P s → step s = .next t → P t)
    {n : Nat} {s u : State} (hs : P s) (h : State.after n s = some u) : P u := by
  induction n generalizing s with
  | zero => exact Option.some.inj h ▸ hs
  | succ n ih =>
    obtain ⟨t, hst, htu⟩ := State.after_succ.1 h
    exact ih (hstep s t hs hst) htu

end Sys2Proof.Machine
end

section
/-! SUPPORT. Data nibbles: the two halves of a cell, and what DCL and WRM do to what is read. -/

namespace Sys2Proof.Machine

/-- The cell's high nibble is the one at the even offset (20_memory.md R54). -/
theorem cellNibble_toNat (cell : Byte) (o : Nibble) :
    (cellNibble cell o).toNat = if o.toNat % 2 = 0 then cell.toNat / 16 else cell.toNat % 16 := by
  unfold cellNibble
  split
  · exact highNibble_toNat cell
  · exact lowNibble_toNat cell

theorem bankOf_toNat (a : Nibble) : (bankOf a).toNat = a.toNat % 8 := by
  simp [bankOf, BitVec.extractLsb'_toNat]

/-- DCL writes the bank and leaves the address latch and both nibble memories (41_memory_interface.md
R132, 20_memory.md R56). -/
theorem exec_dcl_next {s t : State} (h : exec .dcl s = .next t) :
    t.bank = bankOf s.acc ∧ t.acc = s.acc ∧ t.sel = s.sel ∧ t.off = s.off ∧
      (∀ b e o, t.readDM b e o = s.readDM b e o) ∧ ∀ b e k, t.readSM b e k = s.readSM b e k := by
  obtain ⟨-, rfl⟩ := exec_eq_next.1 h
  exact ⟨rfl, rfl, rfl, rfl, fun _ _ _ => rfl, fun _ _ _ => rfl⟩

/-- WRM writes the one data nibble at (bank, sel, off) and no status nibble (41_memory_interface.md
R133). -/
theorem exec_wrm_next {s t : State} (h : exec .wrm s = .next t) :
    (∀ b e o, t.readDM b e o =
      if b = s.bank ∧ e = s.sel ∧ o = s.off then s.acc else s.readDM b e o) ∧
      ∀ b e k, t.readSM b e k = s.readSM b e k := by
  obtain ⟨-, rfl⟩ := exec_eq_next.1 h
  exact ⟨fun b e o => State.readDM_writeDM s s.bank b s.sel e s.off o s.acc, fun _ _ _ => rfl⟩

end Sys2Proof.Machine
end

section
/-! The statements of 20_memory.md. -/

namespace Sys2Proof.Machine

/-- Settles O22: an effect on memory or a latch is at its instruction's own address. -/
theorem memoriesChangeOnlyWhereWritten : Obligations.MemoriesChangeOnlyWhereWritten := by
  intro i s t hexec
  obtain ⟨-, rfl⟩ := exec_eq_next.1 hexec
  have he := effectOf_storedBy i s
  exact ⟨fun _ _ _ => he.apply_readDM, fun _ _ _ => he.apply_readSM, fun _ _ => he.apply_getRamPort,
    fun _ => he.apply_getRomPort, fun a => congrArg (Memory.read · a.toNat) (Effect.apply_pm ..)⟩

/-- Settles O24: every step keeps both, so every run does. -/
theorem runsNeverChangeProgramOrConfiguration :
    Obligations.RunsNeverChangeProgramOrConfiguration := by
  intro n s u hafter
  refine State.after_induction (P := fun t => t.pm = s.pm ∧ t.cfg = s.cfg) ?_ ⟨rfl, rfl⟩ hafter
  rintro t t' ⟨hpm, hcfg⟩ hstep
  obtain ⟨hpm', hcfg'⟩ := exec_keeps_pm_cfg (step_eq_next.1 hstep).2
  exact ⟨hpm'.trans hpm, hcfg'.trans hcfg⟩

/-- Settles O58: neither DCL stores anything, and the one nibble WRM stores is in the other bank. -/
theorem switchingBanksKeepsData : Obligations.SwitchingBanksKeepsData := by
  intro s s1 s2 s3 a hdcl hne hwrm ha hback
  obtain ⟨-, hacc, hsel, hoff, hdm1, hsm1⟩ := exec_dcl_next hdcl
  obtain ⟨hdm2, hsm2⟩ := exec_wrm_next hwrm
  obtain ⟨hbank3, -, -, -, hdm3, hsm3⟩ := exec_dcl_next (s := s2.setAcc a) hback
  have hdm (b e o) : s3.readDM b e o =
      if b = s1.bank ∧ e = s.sel ∧ o = s.off then s.acc else s.readDM b e o := by
    rw [hdm3, State.setAcc_readDM, hdm2, hacc, hsel, hoff, hdm1]
  refine ⟨hdm1, hsm1, ?_, ?_, fun e o => ?_, fun b e k => ?_⟩
  · exact hbank3.trans (BitVec.eq_of_toNat_eq ((bankOf_toNat a).trans ha))
  · exact (hdm ..).trans (if_pos ⟨rfl, rfl, rfl⟩)
  · exact (hdm ..).trans (if_neg fun ⟨hb, _⟩ => hne hb.symm)
  · rw [hsm3, State.setAcc_readSM, hsm2, hsm1]

/-- Settles O59: the write law of one nibble, the halves of its cell, and which nibbles share one. -/
theorem nibbleWritesAreIndependent : Obligations.NibbleWritesAreIndependent := by
  intro s b b' e e' o o' v
  exact ⟨State.readDM_writeDM s b b' e e' o o' v, cellNibble_toNat _ o,
    dataKey_eq_iff b b' e e' o o'⟩

end Sys2Proof.Machine
end

section
/-! SUPPORT. The operand fields of a first word, read back from the word they are encoded in, and a word
rebuilt from its family and its fields (30_encoding.md R82, R83). -/

namespace Sys2Proof.Machine

/-! ### Fields of an encoded word -/

@[simp] theorem regField_val (w : Byte) : (regField w).val = w.toNat % 16 := lowNibble_toNat w

@[simp] theorem pairField_val (w : Byte) : (pairField w).val = w.toNat / 2 % 8 := by
  simp [pairField, BitVec.extractLsb'_toNat, Nat.shiftRight_eq_div_pow]

/-- A word of two nibbles as a number. -/
theorem nibbles_toNat (h l : Nibble) : BitVec.toNat (w := 8) (h ++ l) = h.toNat * 16 + l.toNat := by
  rw [BitVec.toNat_append, ← Nat.shiftLeft_add_eq_or_of_lt l.isLt, Nat.shiftLeft_eq]

/-- A word `h ppp b` as a number. -/
theorem pairWord_toNat (h : Nibble) (p : Pair) (b : BitVec 1) :
    BitVec.toNat (w := 8) (h ++ pairBits p ++ b) = h.toNat * 16 + p.val * 2 + b.toNat := by
  have hp : (pairBits p).toNat = p.val := Nat.mod_eq_of_lt p.isLt
  rw [BitVec.toNat_append, ← Nat.shiftLeft_add_eq_or_of_lt b.isLt, BitVec.toNat_append,
    ← Nat.shiftLeft_add_eq_or_of_lt (pairBits p).isLt, Nat.shiftLeft_eq, Nat.shiftLeft_eq, hp]
  omega

@[simp] theorem regField_append_regBits (h : Nibble) (r : Reg) : regField (h ++ regBits r) = r := by
  have hr : (regBits r).toNat = r.val := Nat.mod_eq_of_lt r.isLt
  apply Fin.ext
  rw [regField_val, nibbles_toNat, hr]
  omega

@[simp] theorem pairField_pairWord (h : Nibble) (p : Pair) (b : BitVec 1) :
    pairField (h ++ pairBits p ++ b) = p := by
  apply Fin.ext
  rw [pairField_val, pairWord_toNat]
  omega

@[simp] theorem highNibble_pairWord (h : Nibble) (p : Pair) (b : BitVec 1) :
    highNibble (h ++ pairBits p ++ b) = h := by
  apply BitVec.eq_of_toNat_eq
  rw [highNibble_toNat, pairWord_toNat]
  omega

@[simp] theorem getElem_zero_pairWord (h : Nibble) (p : Pair) (b : BitVec 1) :
    (h ++ pairBits p ++ b : Byte)[0] = b[0] :=
  (BitVec.getElem_append (by decide)).trans (dif_pos (by decide))

theorem getLsbD_zero_toNat (w : Byte) : (BitVec.ofBool (w.getLsbD 0)).toNat = w.toNat % 2 := by
  rw [BitVec.toNat_ofBool, BitVec.getLsbD, Nat.toNat_testBit, pow_zero, Nat.div_one]

/-! ### A word from its family and its fields -/

section
variable {w : Byte} {k : Nibble} (hk : (highNibble w).toNat = k.toNat)
include hk

/-- The fields of 30_encoding.md R83 are the low nibble as it is, as a register and as a pair with the bit
below it. -/
theorem family_append_lowNibble : k ++ lowNibble w = w :=
  BitVec.eq_of_toNat_eq hk ▸ highNibble_append_lowNibble w

theorem family_append_regBits : k ++ regBits (regField w) = w := by
  apply BitVec.eq_of_toNat_eq
  rw [highNibble_toNat] at hk
  have hr : (regBits (regField w)).toNat = w.toNat % 16 := by simp [regBits]
  rw [nibbles_toNat, hr]
  omega

theorem family_append_pairBits {b : Bool} (hb : w.getLsbD 0 = b) :
    k ++ pairBits (pairField w) ++ BitVec.ofBool b = w := by
  apply BitVec.eq_of_toNat_eq
  rw [highNibble_toNat] at hk
  have hbit : (BitVec.ofBool b).toNat = w.toNat % 2 := hb ▸ getLsbD_zero_toNat w
  rw [pairWord_toNat, pairField_val, hbit]
  omega

/-- The two words of a 12-bit address under a family, read back (30_encoding.md R82). -/
theorem family_append_addrBits (w2 : Byte) :
    [k ++ BitVec.extractLsb' (n := 12) 8 4 (lowNibble w ++ w2),
      BitVec.extractLsb' (n := 12) 0 8 (lowNibble w ++ w2)] = [w, w2] := by
  rw [extract_high_append, extract_low_append, family_append_lowNibble hk]

end

end Sys2Proof.Machine
end

section
/-! SUPPORT. The law of the encoding's length, from its lemma for each constructor. -/

namespace Sys2Proof.Laws

/-- Every well-formed instruction has an encoding of its own number of words, which the first one tells
(30_encoding.md R81, R92). -/
theorem EncodeLength.all : ∀ i : Instr, EncodeLength.Statement i
  | .nop => nop | .hlt => hlt | .unassigned02 w => unassigned02 w
  | .unassigned04 w => unassigned04 w | .unassigned08 w => unassigned08 w | .jcn c a8 => jcn c a8
  | .fim p d => fim p d | .src p => src p | .fin p => fin p | .jin p => jin p | .jun a => jun a
  | .jms a => jms a | .inc r => inc r | .isz r a8 => isz r a8 | .add r => add r | .sub r => sub r
  | .ld r => ld r | .xch r => xch r | .bbl d => bbl d | .ldm d => ldm d | .wrm => wrm | .wmp => wmp
  | .wrr => wrr | .wpm => wpm | .wr0 => wr0 | .wr1 => wr1 | .wr2 => wr2 | .wr3 => wr3 | .sbm => sbm
  | .rdm => rdm | .rdr => rdr | .adm => adm | .rd0 => rd0 | .rd1 => rd1 | .rd2 => rd2 | .rd3 => rd3
  | .clb => clb | .clc => clc | .iac => iac | .cmc => cmc | .cma => cma | .ral => ral | .rar => rar
  | .tcc => tcc | .dac => dac | .tcs => tcs | .stc => stc | .daa => daa | .kbp => kbp | .dcl => dcl
  | .unassignedFE w => unassignedFE w

end Sys2Proof.Laws
end

section
/-! SUPPORT. What the decoder reads from two words, family by family, and what it reads from the words of
an encoding (30_encoding.md R85 to R92). -/

namespace Sys2Proof.Machine

/-! ### From words to an instruction -/

/-- `w1`, with `w2` or alone, encodes the well-formed instruction `i` (30_encoding.md R91). -/
def ReadFrom (w1 w2 : Byte) (i : Instr) : Prop :=
  i.wellFormed = true ∧ (encode i = [w1] ∨ encode i = [w1, w2])

section
variable {w1 w2 : Byte} {i : Instr}

theorem ReadFrom.words (h : ReadFrom w1 w2 i) : i.words = wordCount w1 := by
  obtain ⟨hwf, henc⟩ := h
  obtain ⟨-, hhead⟩ := Laws.EncodeLength.all i hwf
  rcases henc with henc | henc <;> rw [henc] at hhead <;> exact (Option.some.inj hhead).symm

/-- Which of the two encodings it is, the number of words tells (30_encoding.md R81). -/
theorem ReadFrom.encode_eq (h : ReadFrom w1 w2 i) :
    encode i = if i.words = 2 then [w1, w2] else [w1] := by
  obtain ⟨hwf, henc⟩ := h
  obtain ⟨hlen, -⟩ := Laws.EncodeLength.all i hwf
  rcases henc with henc | henc <;> rw [← hlen, henc] <;> rfl

end

/-- A family with a second level, by its low nibble: each of its sixteen words has its own one-word
instruction (30_encoding.md R86, R88 to R90). -/
theorem readFrom_of_forall_lowNibble {k : Nibble} {second : Byte → Instr}
    (h : ∀ l : Nibble, (second (k ++ l)).wellFormed = true ∧ encode (second (k ++ l)) = [k ++ l])
    {w1 : Byte} (hk : (highNibble w1).toNat = k.toNat) (w2 : Byte) : ReadFrom w1 w2 (second w1) := by
  obtain ⟨hwf, henc⟩ := family_append_lowNibble hk ▸ h (lowNibble w1)
  exact ⟨hwf, .inl henc⟩

/-- Every pair of words, by the family of the first (30_encoding.md R85, R87). -/
theorem decodeWords_readFrom (w1 w2 : Byte) : ReadFrom w1 w2 (decodeWords w1 w2) := by
  unfold decodeWords
  split
  next hf => exact readFrom_of_forall_lowNibble (k := 0x0) (by decide) hf w2
  next hf => exact ⟨rfl, .inr (congrArg ([·, w2]) (family_append_lowNibble (k := 0x1) hf))⟩
  next hf =>
    split
    next hb => exact ⟨rfl, .inl (congrArg ([·]) (family_append_pairBits (k := 0x2) hf hb))⟩
    next hb =>
      have hb' : w1.getLsbD 0 = false := eq_false_of_ne_true hb
      exact ⟨rfl, .inr (congrArg ([·, w2]) (family_append_pairBits (k := 0x2) hf hb'))⟩
  next hf =>
    split
    next hb => exact ⟨rfl, .inl (congrArg ([·]) (family_append_pairBits (k := 0x3) hf hb))⟩
    next hb =>
      have hb' : w1.getLsbD 0 = false := eq_false_of_ne_true hb
      exact ⟨rfl, .inl (congrArg ([·]) (family_append_pairBits (k := 0x3) hf hb'))⟩
  next hf => exact ⟨rfl, .inr (family_append_addrBits (k := 0x4) hf w2)⟩
  next hf => exact ⟨rfl, .inr (family_append_addrBits (k := 0x5) hf w2)⟩
  next hf => exact ⟨rfl, .inl (congrArg ([·]) (family_append_regBits (k := 0x6) hf))⟩
  next hf => exact ⟨rfl, .inr (congrArg ([·, w2]) (family_append_regBits (k := 0x7) hf))⟩
  next hf => exact ⟨rfl, .inl (congrArg ([·]) (family_append_regBits (k := 0x8) hf))⟩
  next hf => exact ⟨rfl, .inl (congrArg ([·]) (family_append_regBits (k := 0x9) hf))⟩
  next hf => exact ⟨rfl, .inl (congrArg ([·]) (family_append_regBits (k := 0xA) hf))⟩
  next hf => exact ⟨rfl, .inl (congrArg ([·]) (family_append_regBits (k := 0xB) hf))⟩
  next hf => exact ⟨rfl, .inl (congrArg ([·]) (family_append_lowNibble (k := 0xC) hf))⟩
  next hf => exact ⟨rfl, .inl (congrArg ([·]) (family_append_lowNibble (k := 0xD) hf))⟩
  next hf => exact readFrom_of_forall_lowNibble (k := 0xE) (by decide) hf w2
  next =>
    have hlt : (highNibble w1).toNat < 16 := (highNibble w1).isLt
    have hf : (highNibble w1).toNat = 0xF := by grind
    exact readFrom_of_forall_lowNibble (k := 0xF) (by decide) hf w2

/-- The number of words of a decoded instruction, from its first word alone (30_encoding.md R92). -/
theorem words_decodeWords (w1 w2 : Byte) : (decodeWords w1 w2).words = wordCount w1 :=
  (decodeWords_readFrom w1 w2).words

/-- The length function on the word's number (30_encoding.md R92). -/
theorem wordCount_eq (w1 : Byte) : wordCount w1 =
    if w1.toNat / 16 = 1 ∨ w1.toNat / 16 = 4 ∨ w1.toNat / 16 = 5 ∨ w1.toNat / 16 = 7 ∨
      (w1.toNat / 16 = 2 ∧ w1.toNat % 2 = 0) then 2 else 1 := by
  have hbit := getLsbD_zero_toNat w1
  unfold wordCount
  rw [highNibble_toNat]
  split
  case h_1 h | h_2 h | h_3 h | h_4 h => simp [h]
  next h => cases hb : w1.getLsbD 0 <;> rw [hb] at hbit <;> simp [h, ← hbit]
  next => exact (if_neg (by grind)).symm

/-! ### From an instruction to its words -/

theorem decode_of_words_eq_one {w : Byte} {i : Instr} (hi : decodeWords w 0#8 = i)
    (hw : i.words = 1) (rest : List Byte) : decode (w :: rest) = .ok (i, rest) := by
  subst hi
  have hc : ¬ wordCount w = 2 := by rw [← words_decodeWords w 0#8, hw]; decide
  exact if_neg hc

theorem decode_of_words_eq_two {w1 w2 : Byte} {i : Instr} (hi : decodeWords w1 w2 = i)
    (hw : i.words = 2) (rest : List Byte) : decode (w1 :: w2 :: rest) = .ok (i, rest) := by
  subst hi
  exact if_pos ((words_decodeWords w1 w2).symm.trans hw)

theorem words_eq_one_or_two (i : Instr) : i.words = 1 ∨ i.words = 2 := by
  cases i with
  | jcn | fim | jun | jms | isz => exact .inr rfl
  | _ => exact .inl rfl

theorem words_eq_two_iff (i : Instr) : i.words = 2 ↔ (∃ c a8, i = .jcn c a8) ∨
    (∃ p d, i = .fim p d) ∨ (∃ a, i = .jun a) ∨ (∃ a, i = .jms a) ∨ ∃ r a8, i = .isz r a8 := by
  constructor
  · intro h
    cases i with
    | jcn c a8 => exact .inl ⟨c, a8, rfl⟩
    | fim p d => exact .inr (.inl ⟨p, d, rfl⟩)
    | jun a => exact .inr (.inr (.inl ⟨a, rfl⟩))
    | jms a => exact .inr (.inr (.inr (.inl ⟨a, rfl⟩)))
    | isz r a8 => exact .inr (.inr (.inr (.inr ⟨r, a8, rfl⟩)))
    | _ => cases h
  · rintro (⟨c, a8, rfl⟩ | ⟨p, d, rfl⟩ | ⟨a, rfl⟩ | ⟨a, rfl⟩ | ⟨r, a8, rfl⟩) <;> rfl

/-- The decoder on the words of an encoding: in the row of the instruction's family the fields come back
as they were. A word of an unassigned row comes back as the row's own term. -/
theorem decode_encode (i : Instr) (hwf : i.wellFormed = true) (rest : List Byte) :
    decode (encode i ++ rest) = .ok (i, rest) := by
  cases i with
  | unassigned02 w | unassigned04 w | unassigned08 w | unassignedFE w =>
    exact decode_of_words_eq_one (by revert w; decide) rfl rest
  | jcn | fim | isz => exact decode_of_words_eq_two (by simp [decodeWords]) rfl rest
  | jun a | jms a => exact decode_of_words_eq_two (by simp [decodeWords, append_extract]) rfl rest
  | src | fin | jin | inc | add | sub | ld | xch | bbl | ldm =>
    exact decode_of_words_eq_one (by simp [decodeWords]) rfl rest
  | _ => exact decode_of_words_eq_one rfl rfl rest

end Sys2Proof.Machine
end

section
/-! The statements of 30_encoding.md. -/

namespace Sys2Proof.Machine

/-- Settles O1: the decoder finds the row of the encoded instruction and reads its fields back. -/
theorem decodeOfEncodeReturnsInstruction : Obligations.DecodeOfEncodeReturnsInstruction :=
  fun i rest hwf => decode_encode i hwf rest

/-- Settles O2: each family rebuilds the word it took apart. -/
theorem everyWordDecodesAndEncodesBack : Obligations.EveryWordDecodesAndEncodesBack := by
  intro w1 w2
  have h := decodeWords_readFrom w1 w2
  exact ⟨h.1, h.encode_eq⟩

/-- Settles O3: the length of what is decoded is the length function of the first word. -/
theorem lengthFollowsFromFirstWord : Obligations.LengthFollowsFromFirstWord := by
  refine ⟨fun w1 w2 => (words_decodeWords w1 w2).trans (wordCount_eq w1), fun w1 w2 rest => ?_,
    words_eq_two_iff⟩
  by_cases hc : wordCount w1 = 2
  · have hw : (decodeWords w1 w2).words = 2 := (words_decodeWords w1 w2).trans hc
    exact ⟨_, by rw [decode_of_words_eq_two rfl hw, hw]; rfl⟩
  · have hw : (decodeWords w1 0#8).words = 1 := by
      rw [← words_decodeWords w1 0#8] at hc
      exact (words_eq_one_or_two _).resolve_right hc
    exact ⟨_, by rw [decode_of_words_eq_one rfl hw, hw]; rfl⟩

/-- Settles O4, by running the decoder on each word. -/
theorem sampleWordsDecode : Obligations.SampleWordsDecode := by
  unfold Obligations.SampleWordsDecode
  decide

/-- Settles O60: only the unassigned rows have ill-formed terms, and what is decoded is well formed. -/
theorem illFormedTermsAreNoOpsByChoice : Obligations.IllFormedTermsAreNoOpsByChoice := by
  intro i s hwf
  constructor
  · cases i with
    | unassigned02 | unassigned04 | unassigned08 | unassignedFE => rfl
    | _ => cases hwf
  · rintro w1 w2 rfl
    obtain ⟨hwf', -⟩ := decodeWords_readFrom w1 w2
    exact Bool.false_ne_true (hwf.symm.trans hwf')

end Sys2Proof.Machine
end

section
/-! SUPPORT. The gate of a step, the instruction it fetches, where its pc goes and what ends a run. -/

namespace Sys2Proof.Machine

/-! ### The gate and the fetch -/

theorem step_of_ne_fetch {s : State} (h : s.run ≠ .fetch) : step s = .refused (.noStep s.run) := by
  unfold step State.stepRefusal
  cases hrun : s.run with
  | fetch => exact absurd hrun h
  | dispatch | halted => rfl

theorem fetchInstr_of_decode {s : State} {i : Instr} {rest : List Byte}
    (h : decode [s.fetchFirst, s.fetchSecond] = .ok (i, rest)) : s.fetchInstr = i := by
  obtain ⟨rest', hfetch⟩ := decode_fetch s
  have hpair := Except.ok.inj (hfetch.symm.trans h)
  exact congrArg Prod.fst hpair

theorem decodeTableWord_eq_some {nbits w : Nat} {i : Instr} :
    decodeTableWord nbits w = some i ↔
      ∃ rest, decode [byteOf (w % 2 ^ nbits) 0, byteOf (w % 2 ^ nbits) 1] = .ok (i, rest) := by
  unfold decodeTableWord
  split
  next hd => simp [hd]
  next hd => simp [hd]

/-- The second word lies beside the first and leaves it in place. -/
@[simp] theorem fetchFirst_withWords (s : State) (w1 w2 : Byte) :
    (s.withWords w1 w2).fetchFirst = w1 := by
  have hne : s.pc ≠ s.pc + 1 := by bv_omega
  exact (read_placeBytes_two ..).trans ((if_neg hne).trans (if_pos rfl))

@[simp] theorem fetchSecond_withWords (s : State) (w1 w2 : Byte) :
    (s.withWords w1 w2).fetchSecond = w2 :=
  (read_placeBytes_two ..).trans (if_pos rfl)

/-! ### Interception and the next pc -/

theorem State.trapped_eq_true {s : State} {a12 : Addr} :
    s.trapped a12 = true ↔ s.cfg.trapInterceptor = true ∧ s.cfg.trapTarget = some a12 := by
  simp [State.trapped]

theorem intercepted_eq_true {i : Instr} {s : State} :
    intercepted i s = true ↔ ∃ a12, i = .jms a12 ∧ s.trapped a12 = true := by
  cases i <;> simp [intercepted]

theorem intercepted_of_writesPc_false {i : Instr} (h : writesPc i = false) (s : State) :
    intercepted i s = false := by
  cases i with
  | jms => cases h
  | _ => rfl

theorem nextPc_of_writesPc_false {i : Instr} (h : writesPc i = false) (s : State) :
    nextPc i s = s.nxt i.words := by
  cases i with
  | jun | jcn | isz | jms | bbl | jin => cases h
  | _ => rfl

/-! ### What ends a run -/

theorem Effect.eq_halt_of_apply_run_ne {e : Effect} {s : State} (h : (e.apply s).run ≠ s.run) :
    ∃ r, e = .halt r := by
  cases e with
  | halt r => exact ⟨r, rfl⟩
  | _ => exact absurd rfl h

theorem callEffect_eq_halt {s : State} {r : HaltReason} :
    callEffect s = .halt r ↔ s.depth.val = 3 ∧ r = .stackOverflow := by
  unfold callEffect
  split
  next hd => exact iff_of_false nofun fun ⟨hfull, _⟩ => by omega
  next hd =>
    have hfull : s.depth.val = 3 := by omega
    simp [hfull, eq_comm]

theorem returnEffect_eq_halt {d : Nibble} {s : State} {r : HaltReason} :
    returnEffect d s = .halt r ↔ s.depth.val = 0 ∧ r = .stackUnderflow := by
  unfold returnEffect
  split
  next hd => exact iff_of_false nofun fun ⟨hempty, _⟩ => by omega
  next hd =>
    have hempty : s.depth.val = 0 := by omega
    simp [hempty, eq_comm]

/-- The three ends of a run, each with its reason (40_execution.md R121, 60_exceptions.md R250). -/
theorem effectOf_eq_halt {i : Instr} {s : State} {r : HaltReason} (h : effectOf i s = .halt r) :
    (i = .hlt ∧ r = .haltInstruction) ∨
      (∃ a12, i = .jms a12 ∧ s.depth.val = 3 ∧ r = .stackOverflow) ∨
      ∃ d, i = .bbl d ∧ s.depth.val = 0 ∧ r = .stackUnderflow := by
  cases i with
  | hlt => exact .inl ⟨rfl, (Effect.halt.inj h).symm⟩
  | jms a12 => exact .inr (.inl ⟨a12, rfl, callEffect_eq_halt.1 h⟩)
  | bbl d => exact .inr (.inr ⟨d, rfl, returnEffect_eq_halt.1 h⟩)
  | _ => cases h

/-! ### Unassigned words -/

/-- `i` is the term of an unassigned row for the word `w` (30_encoding.md R90). -/
def IsUnassigned (w : Byte) (i : Instr) : Prop :=
  i = .unassigned02 w ∨ i = .unassigned04 w ∨ i = .unassigned08 w ∨ i = .unassignedFE w

/-- Each unassigned row is a one-word no-op (40_execution.md R117). -/
theorem IsUnassigned.exec_eq {w : Byte} {i : Instr} (h : IsUnassigned w i) (s : State) :
    exec i s = .next { s with pc := s.pc + 1 } := by
  rcases h with rfl | rfl | rfl | rfl <;> rfl

theorem decodeWords_of_highNibble_zero {w : Byte} (h : (highNibble w).toNat = 0x0) (w2 : Byte) :
    decodeWords w w2 = decodeMisc w := by
  simp only [decodeWords, h]

theorem decodeWords_of_highNibble_fifteen {w : Byte} (h : (highNibble w).toNat = 0xF) (w2 : Byte) :
    decodeWords w w2 = decodeAccumulator w := by
  simp only [decodeWords, h]

theorem decodeMisc_isUnassigned {w : Byte} (h : 2 ≤ (lowNibble w).toNat) :
    IsUnassigned w (decodeMisc w) := by
  unfold decodeMisc
  split
  case h_1 hl | h_2 hl => omega
  case h_3 | h_4 => exact .inl rfl
  case h_5 | h_6 | h_7 | h_8 => exact .inr (.inl rfl)
  case h_9 => exact .inr (.inr (.inl rfl))

theorem decodeAccumulator_isUnassigned {w : Byte} (h : 14 ≤ (lowNibble w).toNat) :
    IsUnassigned w (decodeAccumulator w) := by
  unfold decodeAccumulator
  split
  case h_15 => exact .inr (.inr (.inr rfl))
  all_goals omega

theorem decodeWords_isUnassigned {w : Byte} (h : (2 ≤ w.toNat ∧ w.toNat ≤ 15) ∨ 254 ≤ w.toNat)
    (w2 : Byte) : IsUnassigned w (decodeWords w w2) := by
  have hhigh := highNibble_toNat w
  have hlow := lowNibble_toNat w
  rcases h with ⟨hge, hle⟩ | hge
  · rw [decodeWords_of_highNibble_zero (by omega)]
    exact decodeMisc_isUnassigned (by omega)
  · rw [decodeWords_of_highNibble_fifteen (by omega)]
    exact decodeAccumulator_isUnassigned (by omega)

end Sys2Proof.Machine
end

section
/-! The statements of 40_execution.md. -/

namespace Sys2Proof.Machine

/-- Settles O5: the fetch reads the two words at pc and pc + 1 and takes what the decoder gives. -/
theorem stepRunsDecodedInstruction : Obligations.StepRunsDecodedInstruction := by
  intro s i rest hrun hdecode _
  rw [step_of_fetch hrun, fetchInstr_of_decode (s := s) hdecode]

/-- Settles O6: the two placed words are the two that the step fetches. -/
theorem stepRunsThePlacedWord : Obligations.StepRunsThePlacedWord := by
  intro s nbits w i hword
  obtain ⟨rest, hdecode⟩ := decodeTableWord_eq_some.1 hword
  have hfetch : (s.withFetchWord nbits w).fetchInstr = i :=
    fetchInstr_of_decode (rest := rest) (by simpa [State.withFetchWord] using hdecode)
  rw [step_of_fetch (s := s.withFetchWord nbits w) rfl, hfetch]

/-- Settles O7: the gate outside FETCH, and inside it the one instruction the host can take. -/
theorem stepExistsOnlyWhileFetching : Obligations.StepExistsOnlyWhileFetching := by
  refine fun s => ⟨step_of_ne_fetch, fun hrun => ?_⟩
  rw [step_of_fetch hrun, exec_eq]
  cases hint : intercepted s.fetchInstr s with
  | false => exact .inl ⟨_, rfl⟩
  | true =>
    obtain ⟨a12, hjms, htrap⟩ := intercepted_eq_true.1 hint
    obtain ⟨hon, htarget⟩ := State.trapped_eq_true.1 htrap
    exact .inr ⟨a12, hjms, hon, htarget, rfl⟩

/-- Settles O8: such an instruction is not intercepted, and its next pc is the next-sequential one. -/
theorem otherInstructionsAdvancePcByTheirWords :
    Obligations.OtherInstructionsAdvancePcByTheirWords := by
  intro i s hi
  refine ⟨_, exec_eq_next.2 ⟨intercepted_of_writesPc_false hi s, rfl⟩, ?_⟩
  rw [State.jump_pc, nextPc_of_writesPc_false hi, State.nxt_toNat]

/-- Settles O9: the words decode to the four unassigned rows, and each row is a no-op. -/
theorem unassignedWordsAreNoOps : Obligations.UnassignedWordsAreNoOps :=
  ⟨fun _ w2 s hw => (decodeWords_isUnassigned hw w2).exec_eq s,
    fun _ s => ⟨fun _ => IsUnassigned.exec_eq (.inl rfl) s,
      fun _ => IsUnassigned.exec_eq (.inr (.inl rfl)) s,
      fun _ => IsUnassigned.exec_eq (.inr (.inr (.inl rfl))) s,
      fun _ => IsUnassigned.exec_eq (.inr (.inr (.inr rfl))) s⟩⟩

/-- Settles O10: only a halt effect takes run out of FETCH, and three instructions have one. -/
theorem runEndsOnlyByHaltOrStackError : Obligations.RunEndsOnlyByHaltOrStackError := by
  intro s t hstep hne
  obtain ⟨hrun, hexec⟩ := step_eq_next.1 hstep
  obtain ⟨-, rfl⟩ := exec_eq_next.1 hexec
  obtain ⟨r, hhalt⟩ := Effect.eq_halt_of_apply_run_ne (hrun ▸ hne)
  rw [hhalt]
  exact ⟨rfl, effectOf_eq_halt hhalt⟩

end Sys2Proof.Machine
end

section
/-! SUPPORT. A run in which every executed step meets a condition, what keeps the latch and a data nibble,
and the operands of the memory-interface instructions as numbers. -/

namespace Sys2Proof.Machine

/-! ### The latch and a data nibble along a run -/

/-- What every step from a state that meets `Q` keeps, holds at the end of a run through such states. -/
theorem State.after_induction_through {P Q : State → Prop}
    (hstep : ∀ s t, Q s → P s → step s = .next t → P t) {n : Nat} {s u : State} (hs : P s)
    (hQ : ∀ k < n, ∀ v, State.after k s = some v → Q v) (h : State.after n s = some u) : P u := by
  induction n generalizing s with
  | zero => exact Option.some.inj h ▸ hs
  | succ n ih =>
    obtain ⟨t, hst, htu⟩ := State.after_succ.1 h
    have hPt : P t := hstep s t (hQ 0 n.succ_pos s rfl) hs hst
    exact ih hPt (fun k hk v hv => hQ (k + 1) (Nat.succ_lt_succ hk) v
      (State.after_succ.2 ⟨t, hst, hv⟩)) htu

/-- The latch has only SRC as its writer (10_state.md R35, 41_memory_interface.md R131). -/
theorem exec_keeps_latch {i : Instr} {s t : State} (hi : ∀ p, i ≠ .src p) (h : exec i s = .next t) :
    t.latch = s.latch := by
  obtain ⟨-, rfl⟩ := exec_eq_next.1 h
  by_contra hne
  obtain ⟨p, hp⟩ := (effectOf_issuedBy i s).of_latch_ne hne
  exact hi p hp

/-- Only a WRM in the bank itself changes a data nibble of a bank (41_memory_interface.md R133). -/
theorem exec_keeps_readDM {i : Instr} {s t : State} {b : BitVec 3}
    (hi : ¬ (i = .wrm ∧ s.bank = b)) (h : exec i s = .next t) (e o : Nibble) :
    t.readDM b e o = s.readDM b e o := by
  obtain ⟨-, rfl⟩ := exec_eq_next.1 h
  exact (effectOf_storedBy i s).apply_readDM fun ⟨hwrm, hb, _⟩ => hi ⟨hwrm, hb.symm⟩

/-- RDM loads the nibble that the bank and the latch address (41_memory_interface.md R130, R134). -/
theorem exec_rdm_acc {u : State} {b : BitVec 3} {w : Byte} (hb : u.bank = b) (hw : u.latch = w) :
    ∃ v, exec .rdm u = .next v ∧ v.acc = u.readDM b (highNibble w) (lowNibble w) := by
  subst hb hw
  exact ⟨_, rfl, rfl⟩

/-! ### Operands as numbers -/

theorem pairWord_eq_ofNat (h : Nibble) (p : Pair) (b : BitVec 1) :
    (h ++ pairBits p ++ b : Byte) = BitVec.ofNat 8 (h.toNat * 16 + b.toNat + 2 * p.val) := by
  apply BitVec.eq_of_toNat_eq
  have := h.isLt
  have := b.isLt
  rw [pairWord_toNat, BitVec.toNat_ofNat]
  omega

/-- The port chip is `sel[3:2]` (41_memory_interface.md R143). -/
theorem eq_chipOf_iff {c : BitVec 2} {e : Nibble} : c = chipOf e ↔ c.toNat = e.toNat / 4 := by
  have := e.isLt
  rw [← BitVec.toNat_inj, chipOf, BitVec.extractLsb'_toNat, Nat.shiftRight_eq_div_pow]
  omega

/-- The registers after a pair is written, by their numbers (00_scope.md R9). -/
theorem State.getReg_setPair_toNat (s : State) (p : Pair) (w : Byte) (q : Reg) :
    ((s.setPair p w).getReg q).toNat = if q.val = 2 * p.val then w.toNat / 16
      else if q.val = 2 * p.val + 1 then w.toNat % 16 else (s.getReg q).toNat := by
  have hhigh : q = pairHigh p ↔ q.val = 2 * p.val := Fin.ext_iff
  have hlow : q = pairLow p ↔ q.val = 2 * p.val + 1 := Fin.ext_iff
  simp only [State.getReg_setPair, hhigh, hlow]
  by_cases heven : q.val = 2 * p.val
  · simp [heven]
  · by_cases hodd : q.val = 2 * p.val + 1 <;> simp [heven, hodd]

/-- FIN's table address as a number (41_memory_interface.md R147). -/
theorem State.tableAddr_toNat (s : State) : s.tableAddr.toNat =
    (s.pc.toNat + 1) % 4096 / 256 * 256 + 16 * (s.getReg 0).toNat + (s.getReg 1).toNat := by
  have hhigh : pairHigh 0 = 0 := rfl
  have hlow : pairLow 0 = 1 := rfl
  rw [State.tableAddr, pageTarget_toNat, State.nxt_toNat, State.getPair_toNat, hhigh, hlow]
  omega

end Sys2Proof.Machine
end

section
/-! The statements of 41_memory_interface.md. -/

namespace Sys2Proof.Machine

/-- Settles O57: without SRC the latch stays, and without a WRM in the bank so does the nibble that WRM
stored there; RDM then reads it at the same address. -/
theorem latchedNibbleIsReadBack : Obligations.LatchedNibbleIsReadBack := by
  constructor
  · intro n s u hafter hnoSrc
    refine State.after_induction_through (P := fun v => v.latch = s.latch) ?_ rfl hnoSrc hafter
    intro v v' hv hlatch hstep
    exact (exec_keeps_latch hv (step_eq_next.1 hstep).2).trans hlatch
  · intro n s t u hwrm hafter hquiet hbank
    have hstored : t.latch = s.latch ∧ t.readDM s.bank s.sel s.off = s.acc :=
      ⟨exec_keeps_latch (i := .wrm) (fun _ => nofun) hwrm,
        ((exec_wrm_next hwrm).1 ..).trans (if_pos ⟨rfl, rfl, rfl⟩)⟩
    obtain ⟨hlatch, hread⟩ : u.latch = s.latch ∧ u.readDM s.bank s.sel s.off = s.acc := by
      refine State.after_induction_through
        (P := fun v => v.latch = s.latch ∧ v.readDM s.bank s.sel s.off = s.acc) ?_ hstored hquiet
        hafter
      rintro v v' ⟨hnoSrc, hnoWrm⟩ ⟨hlatch, hread⟩ hstep
      obtain ⟨-, hexec⟩ := step_eq_next.1 hstep
      exact ⟨(exec_keeps_latch hnoSrc hexec).trans hlatch,
        (exec_keeps_readDM hnoWrm hexec ..).trans hread⟩
    obtain ⟨v, hrdm, hacc⟩ := exec_rdm_acc hbank hlatch
    exact ⟨v, hrdm, hacc.trans hread⟩

/-- Settles O52: the write law of one data nibble; RDM is its meaning. -/
theorem dataMemoryTransferResults : Obligations.DataMemoryTransferResults := by
  intro s
  obtain ⟨hdm, -⟩ := exec_wrm_next (s := s) rfl
  exact ⟨⟨rfl, _, rfl, rfl, hdm⟩, rfl, rfl⟩

/-- Settles O53: all four are the one shared write, at their own index. -/
theorem statusWriteResults : Obligations.StatusWriteResults := by
  refine ⟨rfl, rfl, rfl, rfl, fun s i k hi => ?_⟩
  have hexec : exec i s = writeStatus k s := by
    rcases hi with ⟨rfl, rfl⟩ | ⟨rfl, rfl⟩ | ⟨rfl, rfl⟩ | ⟨rfl, rfl⟩ <;> rfl
  exact ⟨_, hexec, rfl, fun b e j => State.readSM_writeSM s s.bank b s.sel e k j s.acc⟩

/-- Settles O55: the write laws of the two kinds of latch; the input comes from the configuration. -/
theorem portResults : Obligations.PortResults := by
  refine fun s => ⟨⟨rfl, _, rfl, rfl, fun b c => ?_⟩, ⟨rfl, _, rfl, rfl, fun e => ?_⟩,
    ⟨rfl, _, rfl, rfl, ?_⟩, rfl, rfl⟩
  · simp only [State.advance_getRamPort, State.getRamPort_setRamPort, eq_chipOf_iff]
  · exact State.getRomPort_setRomPort s s.sel e s.acc
  · rintro ⟨k, hk⟩ (rfl : k = _)
    rfl

/-- Settles O56: the table address is read off the state before the write of the pair. -/
theorem fetchIndirectResult : Obligations.FetchIndirectResult := by
  intro s p a ha
  obtain rfl : a = s.tableAddr := BitVec.eq_of_toNat_eq (ha.trans s.tableAddr_toNat.symm)
  exact ⟨congrArg ([·]) (pairWord_eq_ofNat 0x3 p 0), _, rfl, rfl,
    s.getReg_setPair_toNat p (s.readPM s.tableAddr)⟩

/-- Settles O51: the latch takes the even register in its high nibble and the odd one in its low. -/
theorem addressSelectionResults : Obligations.AddressSelectionResults := by
  refine fun s => ⟨fun p hi lo hhi hlo => ?_, rfl, _, rfl, rfl, bankOf_toNat s.acc⟩
  obtain rfl : hi = pairHigh p := Fin.ext hhi
  obtain rfl : lo = pairLow p := Fin.ext hlo
  exact ⟨congrArg ([·]) (pairWord_eq_ofNat 0x2 p 1), _, rfl, rfl, highNibble_append ..,
    lowNibble_append ..⟩

/-- Settles O54: all four are the one shared read, at their own index. -/
theorem statusReadResults : Obligations.StatusReadResults := by
  refine ⟨rfl, rfl, rfl, rfl, fun s i k hi => ?_⟩
  rcases hi with ⟨rfl, rfl⟩ | ⟨rfl, rfl⟩ | ⟨rfl, rfl⟩ | ⟨rfl, rfl⟩ <;> rfl

end Sys2Proof.Machine
end

section
/-! SUPPORT. What the computations of the ALU give as numbers, the rotation of carry and accumulator as a
relation, and the word of a register instruction. -/

namespace Sys2Proof.Machine

/-! ### Sums and differences -/

theorem addLaw_value (a b : Nibble) (c : Bool) :
    (addLaw a b c).1.toNat + 16 * (addLaw a b c).2.toNat = a.toNat + b.toNat + c.toNat :=
  narrow_value (addLaw_bound a b c)

/-- The sum of 42_alu.md R161 is `16 + a - b - c`, since `b ≤ 15` and `c ≤ 1`. -/
theorem subLaw_value (a b : Nibble) (c : Bool) :
    (subLaw a b c).1.toNat + b.toNat + c.toNat + 16 * (subLaw a b c).2.toNat = a.toNat + 16 := by
  have hsum : (subLaw a b c).1.toNat + 16 * (subLaw a b c).2.toNat =
      a.toNat + (15 - b.toNat) + (1 - c.toNat) := narrow_value (subLaw_bound a b c)
  have := b.isLt
  have := bool_toNat_le c
  omega

/-- A carry out of 0 is a borrow (42_alu.md R161). -/
theorem subLaw_borrow (a b : Nibble) (c : Bool) :
    (subLaw a b c).2 = false ↔ a.toNat < b.toNat + c.toNat := by
  have := b.isLt
  have := bool_toNat_le c
  simp only [subLaw, narrow, decide_eq_false_iff_not]
  omega

theorem decrementLaw_value (a : Nibble) :
    (decrementLaw a).1.toNat + 16 * (decrementLaw a).2.toNat = a.toNat + 15 := by
  have := a.isLt
  exact narrow_value (by omega)

/-! ### Rotation -/

/-- The accumulator and carry `q` are `p` rotated left by one: doubling A and adding CY makes the five
bits `CY, A` (42_alu.md R169). -/
def RotatesTo (p q : Nibble × Bool) : Prop :=
  16 * q.2.toNat + q.1.toNat = 2 * p.1.toNat + p.2.toNat

/-- RAL moves `A[3]` out to CY and CY in as `A[0]`. -/
theorem rotatesTo_rotateLeft (a : Nibble) (c : Bool) : RotatesTo (a, c) (rotateLeft a c) := by
  have hacc : (rotateLeft a c).1.toNat = a.toNat % 8 * 2 + c.toNat := by
    simp only [rotateLeft]
    rw [BitVec.toNat_append, ← Nat.shiftLeft_add_eq_or_of_lt (BitVec.ofBool c).isLt, Nat.shiftLeft_eq,
      BitVec.extractLsb'_toNat, BitVec.toNat_ofBool]
    rfl
  have hcy : (rotateLeft a c).2.toNat = a.toNat / 8 % 2 := Nat.toNat_testBit ..
  have := a.isLt
  simp only [RotatesTo, hacc, hcy]
  omega

/-- RAR moves `A[0]` out to CY and CY in as `A[3]`, so that RAL would bring them back. -/
theorem rotateRight_rotatesTo (a : Nibble) (c : Bool) : RotatesTo (rotateRight a c) (a, c) := by
  have hacc : (rotateRight a c).1.toNat = c.toNat * 8 + a.toNat / 2 % 8 := by
    simp only [rotateRight]
    rw [BitVec.toNat_append, ← Nat.shiftLeft_add_eq_or_of_lt (BitVec.isLt _), Nat.shiftLeft_eq,
      BitVec.extractLsb'_toNat, BitVec.toNat_ofBool, Nat.shiftRight_eq_div_pow]
  have hcy : (rotateRight a c).2.toNat = a.toNat / 2 ^ 0 % 2 := Nat.toNat_testBit ..
  have := a.isLt
  simp only [RotatesTo, hacc, hcy]
  omega

theorem nibble_toNat_eq_bits (a : Nibble) : a.toNat =
    8 * (a.getLsbD 3).toNat + 4 * (a.getLsbD 2).toNat + 2 * (a.getLsbD 1).toNat +
      (a.getLsbD 0).toNat := by
  have := a.isLt
  simp only [BitVec.getLsbD, Nat.toNat_testBit]
  omega

/-- A rotation moves every bit of A up by one, the highest into CY, and CY into the lowest. -/
theorem RotatesTo.bits {p q : Nibble × Bool} (h : RotatesTo p q) {b3 b2 b1 b0 : Bool}
    (hp : p.1.toNat = 8 * b3.toNat + 4 * b2.toNat + 2 * b1.toNat + b0.toNat) :
    q.2 = b3 ∧ q.1.toNat = 8 * b2.toNat + 4 * b1.toNat + 2 * b0.toNat + p.2.toNat := by
  have := bool_toNat_le b2
  have := bool_toNat_le b1
  have := bool_toNat_le b0
  have := bool_toNat_le p.2
  have := q.1.isLt
  unfold RotatesTo at h
  have hcy : q.2.toNat = b3.toNat := by omega
  exact ⟨Function.LeftInverse.injective Bool.ofNat_toNat hcy, by omega⟩

/-- Five bits rotated five times are the bits they were. -/
theorem RotatesTo.eq_of_five {p0 p1 p2 p3 p4 p5 : Nibble × Bool} (h1 : RotatesTo p0 p1)
    (h2 : RotatesTo p1 p2) (h3 : RotatesTo p2 p3) (h4 : RotatesTo p3 p4) (h5 : RotatesTo p4 p5) :
    p5 = p0 := by
  have hacc0 := nibble_toNat_eq_bits p0.1
  obtain ⟨hcy1, hacc1⟩ := h1.bits hacc0
  obtain ⟨hcy2, hacc2⟩ := h2.bits hacc1
  obtain ⟨hcy3, hacc3⟩ := h3.bits hacc2
  obtain ⟨hcy4, hacc4⟩ := h4.bits hacc3
  obtain ⟨hcy5, hacc5⟩ := h5.bits hacc4
  rw [hcy1, hcy2, hcy3, hcy4, ← hacc0] at hacc5
  exact Prod.ext (BitVec.eq_of_toNat_eq hacc5) hcy5

/-! ### Carry transfers, decimal adjust and keyboard -/

theorem not_toNat_add_toNat (c : Bool) : (!c).toNat + c.toNat = 1 := by cases c <;> rfl

theorem carryNibble_toNat (c : Bool) : (carryNibble c).toNat = c.toNat := by cases c <;> rfl

theorem carrySubtractNibble_toNat (c : Bool) : (carrySubtractNibble c).toNat = 9 + c.toNat := by
  cases c <;> rfl

/-- DAA adds 6 and only ever sets CY, on a carry out of that sum (42_alu.md R178). -/
theorem decimalAdjust_of_adjusts {a : Nibble} {c : Bool} (h : 9 < a.toNat ∨ c = true) :
    (decimalAdjust a c).1.toNat = (a.toNat + 6) % 16 ∧
      ((decimalAdjust a c).2 = true ↔ c = true ∨ 15 < a.toNat + 6) := by
  simp [decimalAdjust, if_pos h]

theorem decimalAdjust_of_keeps {a : Nibble} {c : Bool} (h : ¬ (9 < a.toNat ∨ c = true)) :
    decimalAdjust a c = (a, c) := if_neg h

/-- DAA turns a binary sum of up to 19 into a decimal digit and a decimal carry: a sum up to 9 is kept,
one up to 15 carries out of the + 6, and a greater one has carried already (42_alu.md R178). -/
theorem decimalAdjust_value {a : Nibble} {c : Bool} (h : a.toNat + 16 * c.toNat ≤ 19) :
    (decimalAdjust a c).1.toNat + 10 * (decimalAdjust a c).2.toNat = a.toNat + 16 * c.toNat ∧
      (decimalAdjust a c).1.toNat ≤ 9 := by
  by_cases hadjust : 9 < a.toNat ∨ c = true
  · obtain ⟨hacc, hcy⟩ := decimalAdjust_of_adjusts hadjust
    have hcarry : (decimalAdjust a c).2 = true := hcy.2 (hadjust.symm.imp_right (by omega))
    rw [hacc, hcarry, Bool.toNat_true]
    have := a.isLt
    rcases hadjust with hbig | rfl
    · omega
    · rw [Bool.toNat_true] at h ⊢
      omega
  · obtain ⟨hdigit, hclear⟩ := not_or.1 hadjust
    rw [decimalAdjust_of_keeps hadjust, Bool.eq_false_of_not_eq_true hclear]
    exact ⟨rfl, Nat.le_of_not_lt hdigit⟩

/-- Key `k`, the single bit `2 ^ k`, has number `k + 1` (42_alu.md R179). -/
theorem keyboardLaw_of_one_key {a : Nibble} {k : Nat} (hk : k < 4) (ha : a.toNat = 2 ^ k) :
    (keyboardLaw a).toNat = k + 1 := by
  unfold keyboardLaw
  rw [ha]
  interval_cases k <;> rfl

/-- Several keys at once have no number (42_alu.md R179). -/
theorem keyboardLaw_of_several_keys {a : Nibble} (hnone : a ≠ 0)
    (hone : ∀ k < 4, a.toNat ≠ 2 ^ k) : keyboardLaw a = 15 := by
  unfold keyboardLaw
  split
  case h_1 h => exact absurd (BitVec.eq_of_toNat_eq h) hnone
  case h_2 h => exact absurd h (hone 0 (by decide))
  case h_3 h => exact absurd h (hone 1 (by decide))
  case h_4 h => exact absurd h (hone 2 (by decide))
  case h_5 h => exact absurd h (hone 3 (by decide))
  case h_6 => rfl

/-! ### Instructions that write A and CY, and the word of a register instruction -/

/-- The first word `h rrrr` (30_encoding.md R82). -/
theorem regWord_eq_ofNat (h : Nibble) (r : Reg) :
    (h ++ regBits r : Byte) = BitVec.ofNat 8 (h.toNat * 16 + r.val) := by
  have hr : (regBits r).toNat = r.val := Nat.mod_eq_of_lt r.isLt
  apply BitVec.eq_of_toNat_eq
  rw [nibbles_toNat, hr, BitVec.toNat_ofNat]
  omega

/-- Five times an instruction that writes A and CY by `f`, where `f` five times is no change. -/
theorem exec_accCy_five {i : Instr} {f : Nibble → Bool → Nibble × Bool}
    (hi : ∀ u, exec i u = completes 1 (u.setAccCy (f u.acc u.cy)))
    (hf : ∀ p : Nibble × Bool, (Function.uncurry f)^[5] p = p) {s s1 s2 s3 s4 s5 : State}
    (h1 : exec i s = .next s1) (h2 : exec i s1 = .next s2) (h3 : exec i s2 = .next s3)
    (h4 : exec i s3 = .next s4) (h5 : exec i s4 = .next s5) : s5 = { s with pc := s.pc + 5 } := by
  rw [hi, completes_eq_next] at h1 h2 h3 h4 h5
  subst h1 h2 h3 h4 h5
  have hpc : s.pc + 1 + 1 + 1 + 1 + 1 = s.pc + 5 := by simp only [BitVec.add_assoc]; rfl
  calc
    _ = { s.setAccCy ((Function.uncurry f)^[5] (s.acc, s.cy)) with
          pc := s.pc + 1 + 1 + 1 + 1 + 1 } := rfl
    _ = _ := by rw [hf, hpc]; rfl

end Sys2Proof.Machine
end

section
/-! The statements of 42_alu.md. -/

namespace Sys2Proof.Machine

/-- Settles O27: both are the addition law, on a register and on the current data nibble. -/
theorem addResults : Obligations.AddResults := fun _ =>
  ⟨fun r => ⟨congrArg ([·]) (regWord_eq_ofNat 0x8 r), _, rfl, rfl, addLaw_value ..⟩,
    rfl, _, rfl, rfl, addLaw_value ..⟩

/-- Settles O28: both are the subtraction law, on a register and on the current data nibble. -/
theorem subtractResults : Obligations.SubtractResults := fun _ =>
  ⟨fun r => ⟨congrArg ([·]) (regWord_eq_ofNat 0x9 r), _, rfl, rfl, subLaw_value ..,
      subLaw_borrow ..⟩,
    rfl, _, rfl, rfl, subLaw_value .., subLaw_borrow ..⟩

/-- Settles O29: INC is a register write; IAC adds 1 and DAC adds 15 with no carry in. -/
theorem incrementAndDecrementResults : Obligations.IncrementAndDecrementResults := by
  refine fun s => ⟨fun r => ⟨congrArg ([·]) (regWord_eq_ofNat 0x6 r), _, rfl, rfl, fun q => ?_⟩,
    ⟨rfl, _, rfl, rfl, addLaw_value s.acc 1 false⟩, rfl, _, rfl, rfl, decrementLaw_value s.acc⟩
  rw [State.advance_getReg, State.getReg_setReg, apply_ite BitVec.toNat, incrementLaw_toNat]

/-- Settles O30: RAL rotates left, and RAR is what RAL undoes. -/
theorem rotateResults : Obligations.RotateResults := fun s =>
  ⟨⟨rfl, _, rfl, rfl, rotatesTo_rotateLeft s.acc s.cy⟩,
    rfl, _, rfl, rfl, (rotateRight_rotatesTo s.acc s.cy).symm⟩

/-- Settles O31: five RALs are a chain of five rotations from the first state to the last, and five RARs
one from the last to the first. -/
theorem fiveRotatesRestoreAccumulatorAndCarry :
    Obligations.FiveRotatesRestoreAccumulatorAndCarry := by
  rintro i s s1 s2 s3 s4 s5 (rfl | rfl) h1 h2 h3 h4 h5
  · have hleft (p : Nibble × Bool) : RotatesTo p (rotateLeft p.1 p.2) := rotatesTo_rotateLeft ..
    exact exec_accCy_five (f := rotateLeft) (fun _ => rfl)
      (fun _ => RotatesTo.eq_of_five (hleft _) (hleft _) (hleft _) (hleft _) (hleft _)) h1 h2 h3 h4 h5
  · have hright (p : Nibble × Bool) : RotatesTo (rotateRight p.1 p.2) p := rotateRight_rotatesTo ..
    exact exec_accCy_five (f := rotateRight) (fun _ => rfl)
      (fun _ => (RotatesTo.eq_of_five (hright _) (hright _) (hright _) (hright _) (hright _)).symm)
      h1 h2 h3 h4 h5

/-- Settles O33: DAA by the two branches of its law, KBP by the three kinds of value it meets. -/
theorem transferAndDecimalResults : Obligations.TransferAndDecimalResults := by
  refine fun s => ⟨⟨rfl, _, rfl, rfl, carryNibble_toNat s.cy⟩,
    ⟨rfl, _, rfl, rfl, carrySubtractNibble_toNat s.cy⟩, ⟨rfl, _, rfl, rfl, ?_⟩,
    rfl, _, rfl, rfl, fun hnone => congrArg keyboardLaw hnone, fun _ => keyboardLaw_of_one_key,
    keyboardLaw_of_several_keys⟩
  split_ifs with hadjust
  · exact decimalAdjust_of_adjusts hadjust
  · exact Prod.ext_iff.1 (decimalAdjust_of_keeps hadjust)

/-- Settles O35: the binary sum of two digits and a carry is at most 19, which DAA makes decimal. -/
theorem addThenAdjustAddsDecimalDigits : Obligations.AddThenAdjustAddsDecimalDigits := by
  intro s s1 s2 r hacc hreg hadd hdaa
  obtain ⟨-, rfl⟩ := exec_eq_next.1 hadd
  obtain ⟨-, rfl⟩ := exec_eq_next.1 hdaa
  have hsum := addLaw_value s.acc (s.getReg r) s.cy
  have hcy := bool_toNat_le s.cy
  rw [← hsum]
  have hbound : (addLaw s.acc (s.getReg r) s.cy).1.toNat +
      16 * (addLaw s.acc (s.getReg r) s.cy).2.toNat ≤ 19 := by omega
  exact decimalAdjust_value hbound

/-- Settles O32: the complements by their laws; the others write constants. -/
theorem clearSetAndComplementResults : Obligations.ClearSetAndComplementResults := by
  refine fun s => ⟨⟨rfl, rfl⟩, ⟨rfl, rfl⟩, ⟨rfl, _, rfl, rfl, not_toNat_add_toNat s.cy⟩,
    ⟨rfl, _, rfl, rfl, ?_⟩, rfl, rfl⟩
  have hacc : s.acc.toNat ≤ 15 := Nat.le_of_lt_succ s.acc.isLt
  exact (congrArg (· + s.acc.toNat) (complementLaw_toNat s.acc)).trans (Nat.sub_add_cancel hacc)

end Sys2Proof.Machine
end

section
/-! SUPPORT. The word of an instruction with a nibble operand, and what XCH leaves. -/

namespace Sys2Proof.Machine

/-- The first word `h dddd` (30_encoding.md R82). -/
theorem nibbleWord_eq_ofNat (h d : Nibble) :
    (h ++ d : Byte) = BitVec.ofNat 8 (h.toNat * 16 + d.toNat) := by
  rw [← nibbles_toNat, BitVec.ofNat_toNat, BitVec.setWidth_eq]

/-- XCH takes the register into A and A into the register, and keeps every other register
(43_data_transfer.md R203). -/
theorem exec_xch_next {r : Reg} {s t : State} (h : exec (.xch r) s = .next t) :
    t = { s with acc := s.getReg r, x := t.x, pc := s.pc + 1 } ∧
      ∀ q, t.getReg q = if q = r then s.acc else s.getReg q := by
  obtain ⟨-, rfl⟩ := exec_eq_next.1 h
  exact ⟨rfl, fun q => State.getReg_setReg (s.setAcc (s.getReg r)) r q s.acc⟩

end Sys2Proof.Machine
end

section
/-! The statements of 43_data_transfer.md. -/

namespace Sys2Proof.Machine

/-- Settles O37: the second XCH finds each of the two values where the first one put it. -/
theorem exchangeTwiceRestores : Obligations.ExchangeTwiceRestores := by
  intro r s s1 s2 h1 h2
  obtain ⟨hs1, hreg1⟩ := exec_xch_next h1
  obtain ⟨hs2, hreg2⟩ := exec_xch_next h2
  have hacc1 : s1.acc = s.getReg r := congrArg State.acc hs1
  have hacc : s1.getReg r = s.acc := (hreg1 r).trans (if_pos rfl)
  have hx : s2.x = s.x := by
    refine State.x_ext fun q => ?_
    rw [hreg2, hreg1, hacc1]
    split_ifs with hq
    · rw [hq]
    · rfl
  have hpc : s1.pc + 1 = s.pc + 2 := by
    have hpc1 : s1.pc = s.pc + 1 := congrArg State.pc hs1
    rw [hpc1, BitVec.add_assoc]
    rfl
  calc
    s2 = { s1 with acc := s1.getReg r, x := s2.x, pc := s1.pc + 1 } := hs2
    _ = { s1 with acc := s.acc, x := s.x, pc := s.pc + 2 } := by rw [hacc, hx, hpc]
    _ = { s with pc := s.pc + 2 } := by rw [hs1]

/-- Settles O36: the registers by the write laws of one register and of a pair; LDM and LD write A
alone. -/
theorem dataTransferResults : Obligations.DataTransferResults := fun s =>
  ⟨⟨rfl, rfl⟩, fun d => ⟨congrArg ([·]) (nibbleWord_eq_ofNat 0xD d), rfl⟩,
    fun r => ⟨congrArg ([·]) (regWord_eq_ofNat 0xA r), rfl⟩,
    fun r => ⟨congrArg ([·]) (regWord_eq_ofNat 0xB r), _, rfl, exec_xch_next rfl⟩,
    fun p d => ⟨congrArg ([·, d]) (pairWord_eq_ofNat 0x2 p 0), _, rfl, rfl,
      s.getReg_setPair_toNat p d⟩⟩

end Sys2Proof.Machine
end

section
/-! SUPPORT. The words of a 12-bit target, the condition and the target of a conditional branch as
numbers, and a loop of one ISZ. -/

namespace Sys2Proof.Machine

/-! ### Words and branches -/

/-- The two words `h aaaa`, `aaaa aaaa` of a 12-bit target (30_encoding.md R82). -/
theorem addrWords_eq_ofNat (h : Nibble) (a : Addr) :
    ([h ++ a.extractLsb' 8 4, a.extractLsb' 0 8] : List Byte) =
      [BitVec.ofNat 8 (h.toNat * 16 + a.toNat / 256), BitVec.ofNat 8 (a.toNat % 256)] := by
  have := a.isLt
  have hhigh : (a.extractLsb' 8 4).toNat = a.toNat / 256 := by
    rw [BitVec.extractLsb'_toNat, Nat.shiftRight_eq_div_pow]
    omega
  have hlow : a.extractLsb' 0 8 = BitVec.ofNat 8 (a.toNat % 256) :=
    BitVec.eq_of_toNat_eq (by simp [BitVec.extractLsb'_toNat])
  rw [nibbleWord_eq_ofNat, hhigh, hlow]

theorem getLsbD_eq_true_iff (c : Nibble) (k : Nat) :
    c.getLsbD k = true ↔ c.toNat / 2 ^ k % 2 = 1 := by
  rw [BitVec.getLsbD, Nat.testBit_eq_decide_div_mod_eq, decide_eq_true_iff]

/-- The condition of JCN: `c[3]` inverts the OR of the selected tests as a whole (44_control_flow.md
R222). -/
theorem jumpCondition_eq_true {c acc : Nibble} {cy : Bool} :
    jumpCondition c acc cy = true ↔ (c.toNat / 8 % 2 = 1 ↔
      ¬ ((c.toNat / 4 % 2 = 1 ∧ acc = 0) ∨ (c.toNat / 2 % 2 = 1 ∧ cy = true))) := by
  have hinvert (b t : Bool) : (if b then !t else t) = true ↔ (b = true ↔ ¬ t = true) := by
    cases b <;> cases t <;> decide
  refine (hinvert ..).trans ?_
  simp only [Bool.or_eq_true, Bool.and_eq_true, decide_eq_true_iff, getLsbD_eq_true_iff]
  rfl

/-- ISZ falls through from 15 and from no other value (44_control_flow.md R224). -/
theorem incrementLaw_eq_zero {v : Nibble} : incrementLaw v = 0#4 ↔ v.toNat = 15 := by
  have := v.isLt
  rw [← BitVec.toNat_inj, incrementLaw_toNat, BitVec.toNat_ofNat]
  omega

/-- Where a two-word conditional branch goes (44_control_flow.md R220). -/
theorem branch_toNat (s : State) (a8 : Byte) (p : Prop) [Decidable p] :
    (if p then pageTarget (s.nxt 2) a8 else s.nxt 2).toNat =
      if p then (s.pc.toNat + 2) % 4096 / 256 * 256 + a8.toNat else (s.pc.toNat + 2) % 4096 := by
  rw [apply_ite BitVec.toNat, pageTarget_toNat, State.nxt_toNat]

/-! ### A loop of one ISZ -/

/-- A run grows by a step at its end. -/
theorem State.after_snoc {n : Nat} {s t u : State} (h : State.after n s = some t)
    (hstep : step t = .next u) : State.after (n + 1) s = some u := by
  induction n generalizing s with
  | zero =>
    obtain rfl : s = t := Option.some.inj h
    exact State.after_succ.2 ⟨u, hstep, rfl⟩
  | succ n ih =>
    obtain ⟨v, hsv, hvt⟩ := State.after_succ.1 h
    exact State.after_succ.2 ⟨v, hsv, ih hvt⟩

theorem State.setReg_setReg (s : State) (r : Reg) (v w : Nibble) :
    (s.setReg r v).setReg r w = s.setReg r w := by
  simp [State.setReg]

theorem State.setReg_getReg (s : State) (r : Reg) : s.setReg r (s.getReg r) = s := by
  simp [State.setReg, State.getReg]

/-- The next step fetches an `ISZ r` whose target is itself, at an address in the page of the word behind
it. -/
structure State.LoopsOnSkip (s : State) (r : Reg) : Prop where
  run : s.run = .fetch
  page : s.pc.toNat % 256 ≤ 253
  first : s.readPM s.pc = BitVec.ofNat 8 (0x70 + r.val)
  second : (s.readPM (s.pc + 1)).toNat = s.pc.toNat % 256

section
variable {s : State} {r : Reg} (h : s.LoopsOnSkip r)
include h

theorem State.LoopsOnSkip.setReg (v : Nibble) : (s.setReg r v).LoopsOnSkip r :=
  ⟨h.run, h.page, h.first, h.second⟩

theorem State.LoopsOnSkip.fetchInstr : s.fetchInstr = .isz r s.fetchSecond := by
  have hfirst : s.fetchFirst = 0x7#4 ++ regBits r := h.first.trans (regWord_eq_ofNat 0x7 r).symm
  have hdecode : decode [s.fetchFirst, s.fetchSecond] = .ok (.isz r s.fetchSecond, []) :=
    hfirst ▸ decode_encode (.isz r s.fetchSecond) rfl []
  exact fetchInstr_of_decode hdecode

theorem State.LoopsOnSkip.pageTarget_eq : pageTarget (s.nxt 2) s.fetchSecond = s.pc := by
  have hpage := h.page
  have hsecond : s.fetchSecond.toNat = s.pc.toNat % 256 := h.second
  have := s.pc.isLt
  apply BitVec.eq_of_toNat_eq
  rw [pageTarget_toNat, State.nxt_toNat, hsecond]
  omega

/-- One turn of the loop: pc stays unless the register was 15. -/
theorem State.LoopsOnSkip.step_eq : step s = .next ((s.setReg r (incrementLaw (s.getReg r))).jump
    (if incrementLaw (s.getReg r) ≠ 0#4 then s.pc else s.nxt 2)) := by
  rw [step_of_fetch h.run, h.fetchInstr]
  exact (execIsz_eq r s.fetchSecond s).trans (by rw [h.pageTarget_eq])

/-- The state after `n` turns, while the register has not wrapped. -/
theorem State.LoopsOnSkip.after_eq {n : Nat} (hn : (s.getReg r).toNat + n < 16) :
    State.after n s = some (s.setReg r (BitVec.ofNat 4 ((s.getReg r).toNat + n))) := by
  induction n with
  | zero => simp [State.setReg_getReg]
  | succ n ih =>
    have hstep := (h.setReg (BitVec.ofNat 4 ((s.getReg r).toNat + n))).step_eq
    have hinc : incrementLaw (BitVec.ofNat 4 ((s.getReg r).toNat + n)) =
        BitVec.ofNat 4 ((s.getReg r).toNat + (n + 1)) := by
      apply BitVec.eq_of_toNat_eq
      rw [incrementLaw_toNat, BitVec.toNat_ofNat, BitVec.toNat_ofNat]
      omega
    have hne : BitVec.ofNat 4 ((s.getReg r).toNat + (n + 1)) ≠ 0#4 := by
      rw [Ne, ← BitVec.toNat_inj, BitVec.toNat_ofNat, BitVec.toNat_ofNat]
      omega
    rw [State.getReg_setReg_self, hinc, State.setReg_setReg, if_pos hne] at hstep
    exact State.after_snoc (ih (by omega)) hstep

/-- The turn that wraps the register leaves the loop. -/
theorem State.LoopsOnSkip.after_last :
    State.after (16 - (s.getReg r).toNat) s = some ((s.setReg r 0).advance 2) := by
  have := (s.getReg r).isLt
  have hn : 16 - (s.getReg r).toNat = (15 - (s.getReg r).toNat) + 1 := by omega
  have hv : (s.getReg r).toNat + (15 - (s.getReg r).toNat) = 15 := by omega
  have hafter := h.after_eq (n := 15 - (s.getReg r).toNat) (by omega)
  have hstep := (h.setReg 15).step_eq
  have hwrap : incrementLaw 15 = 0#4 := rfl
  rw [State.getReg_setReg_self, State.setReg_setReg, hwrap, if_neg (not_not_intro rfl)] at hstep
  rw [hv] at hafter
  rw [hn]
  exact State.after_snoc hafter hstep

end

end Sys2Proof.Machine
end

section
/-! The statements of 44_control_flow.md. -/

namespace Sys2Proof.Machine

/-- Settles O39: both outcomes of JCN are a jump, and the condition says which. -/
theorem conditionalJumpResult : Obligations.ConditionalJumpResult := by
  refine fun s c a8 => ⟨congrArg ([·, a8]) (nibbleWord_eq_ofNat 0x1 c), _, execJcn_eq c a8 s, rfl, ?_⟩
  simp only [State.jump_pc, branch_toNat, jumpCondition_eq_true]

/-- Settles O40: one register write, and a branch that the wrap to 0 decides. -/
theorem incrementAndSkipResult : Obligations.IncrementAndSkipResult := by
  refine fun s r a8 => ⟨congrArg ([·, a8]) (regWord_eq_ofNat 0x7 r), _, execIsz_eq r a8 s, rfl,
    fun q => ?_, ?_⟩
  · rw [State.jump_getReg, State.getReg_setReg, apply_ite BitVec.toNat, incrementLaw_toNat]
  · rw [State.jump_pc, branch_toNat]
    simp only [Ne, incrementLaw_eq_zero, ite_not]

/-- Settles O41: the low byte of the target is the pair's value. -/
theorem indirectJumpResult : Obligations.IndirectJumpResult := by
  intro s p hi lo hhi hlo
  obtain rfl : hi = pairHigh p := Fin.ext hhi
  obtain rfl : lo = pairLow p := Fin.ext hlo
  refine ⟨congrArg ([·]) (pairWord_eq_ofNat 0x3 p 1), _, rfl, rfl, ?_⟩
  rw [State.jump_pc, pageTarget_toNat, State.nxt_toNat, State.getPair_toNat]
  omega

/-- Settles O42: without the interception, the depth decides between the two other answers of JMS. -/
theorem callPushesReturnAddress : Obligations.CallPushesReturnAddress := by
  refine fun s a12 hfree => ⟨addrWords_eq_ofNat 0x5 a12, ?_⟩
  rcases execJms_cases a12 s with ⟨htrap, -⟩ | ⟨-, hfull, hexec⟩ | ⟨-, hroom, hexec⟩
  · exact absurd (State.trapped_eq_true.1 htrap) hfree
  · exact ⟨fun hroom => by omega, fun _ => hexec⟩
  · refine ⟨fun _ => ⟨_, hexec, rfl, rfl, fun k => ?_⟩, fun hfull => by omega⟩
    simp only [Vector.getElem_set, eq_comm (a := s.depth.val)]
    rfl

/-- Settles O43: the depth decides between the two answers of BBL. -/
theorem returnPopsAndLoads : Obligations.ReturnPopsAndLoads := by
  refine fun s d => ⟨congrArg ([·]) (nibbleWord_eq_ofNat 0xC d), ?_⟩
  rcases execBbl_cases d s with ⟨hempty, hexec⟩ | ⟨hentry, hexec⟩
  · exact ⟨fun k hk => by omega, fun _ => hexec⟩
  · refine ⟨fun k hk => ?_, fun hempty => by omega⟩
    have htop : s.depth.val - 1 = k.val := by omega
    exact ⟨_, hexec, by simp only [htop], htop⟩

/-- Settles O47: the entry that BBL pops is the one that JMS pushed. -/
theorem callThenReturnComesBack : Obligations.CallThenReturnComesBack := by
  intro s t u a12 d hroom hcall hreturn
  rcases execJms_cases a12 s with ⟨-, hexec⟩ | ⟨-, hfull, -⟩ | ⟨-, hd, hexec⟩
  · cases hexec.symm.trans hcall
  · omega
  · have ht := Host.Outcome.next.inj (hexec.symm.trans hcall)
    rcases execBbl_cases d t with ⟨hempty, -⟩ | ⟨hentry, hexec'⟩
    · subst ht
      exact absurd hempty (Nat.succ_ne_zero _)
    · obtain rfl := Host.Outcome.next.inj (hexec'.symm.trans hreturn)
      subst ht
      exact ⟨Vector.getElem_set_self _, rfl, rfl, rfl, rfl⟩

/-- Settles O49: each turn adds 1 to the register, and the one that wraps it leaves the loop. -/
theorem skipLoopRunsSixteenMinusValueTimes :
    Obligations.SkipLoopRunsSixteenMinusValueTimes := by
  intro s r hrun hpage hfirst hsecond
  have hloop : s.LoopsOnSkip r := ⟨hrun, hpage, hfirst, hsecond⟩
  refine ⟨fun n hn => ?_, _, hloop.after_last, rfl, State.getReg_setReg_self s r 0,
    fun q hq => State.getReg_setReg_of_ne s 0 hq⟩
  have hsum : (s.getReg r).toNat + n < 16 := by omega
  refine ⟨_, hloop.after_eq hsum, rfl, ?_⟩
  rw [State.getReg_setReg_self, BitVec.toNat_ofNat, Nat.mod_eq_of_lt hsum]

/-- Settles O38. -/
theorem jumpGoesToItsTarget : Obligations.JumpGoesToItsTarget := fun _ a12 =>
  ⟨addrWords_eq_ofNat 0x4 a12, rfl⟩

/-- Settles O44. -/
theorem haltEntersHalted : Obligations.HaltEntersHalted := fun _ => ⟨rfl, rfl⟩

end Sys2Proof.Machine
end

section
/-! SUPPORT. The step that ends a run, the calls that have room on the stack, and the trap parameters,
which only the interception reads. -/

namespace Sys2Proof.Machine

/-! ### The step that ends a run -/

/-- A step that ends a run wrote a halt and its next pc, and nothing else. -/
theorem step_next_of_run_halted {s t : State} (hstep : step s = .next t)
    (hhalted : t.run = .halted) : ∃ r, effectOf s.fetchInstr s = .halt r ∧
      (s.enterHalted r).jump (nextPc s.fetchInstr s) = t := by
  obtain ⟨hrun, hexec⟩ := step_eq_next.1 hstep
  obtain ⟨-, rfl⟩ := exec_eq_next.1 hexec
  have hne : ((effectOf s.fetchInstr s).apply s).run ≠ s.run := by
    rw [hrun, ← State.jump_run, hhalted]
    nofun
  obtain ⟨r, hhalt⟩ := Effect.eq_halt_of_apply_run_ne hne
  exact ⟨r, hhalt, by rw [hhalt]; rfl⟩

theorem nextPc_jms_of_full {s : State} (h : s.depth.val = 3) (a12 : Addr) :
    nextPc (.jms a12) s = s.pc :=
  if_neg (by omega)

theorem nextPc_bbl_of_empty {s : State} (h : s.depth.val = 0) (d : Nibble) :
    nextPc (.bbl d) s = s.pc :=
  dif_neg (by omega)

/-- The two fatal control errors, each with the state it leaves (60_exceptions.md R250, R252). -/
theorem step_fatal_cases {s t : State} (hstep : step s = .next t) (hfatal : t.Fatal) :
    (∃ a12, s.fetchInstr = .jms a12 ∧ s.depth.val = 3 ∧ t = s.raiseFatal .stackOverflow) ∨
      ∃ d, s.fetchInstr = .bbl d ∧ s.depth.val = 0 ∧ t = s.raiseFatal .stackUnderflow := by
  obtain ⟨hhalted, hfatal⟩ := hfatal
  obtain ⟨r, hhalt, rfl⟩ := step_next_of_run_halted hstep hhalted
  rcases effectOf_eq_halt hhalt with ⟨-, rfl⟩ | ⟨a12, hi, hfull, rfl⟩ | ⟨d, hi, hempty, rfl⟩
  · rcases hfatal with hreason | hreason <;> cases hreason
  · rw [hi, nextPc_jms_of_full hfull]
    exact .inl ⟨a12, rfl, hfull, rfl⟩
  · rw [hi, nextPc_bbl_of_empty hempty]
    exact .inr ⟨d, rfl, hempty, rfl⟩

theorem State.SafeToStep.intercepted_eq_false {s : State} (h : s.SafeToStep) :
    intercepted s.fetchInstr s = false := by
  obtain ⟨hcall, -⟩ := h
  rw [← Bool.not_eq_true, intercepted_eq_true]
  rintro ⟨a12, hi, htrap⟩
  obtain ⟨-, hfree⟩ := hcall a12 hi
  exact Bool.false_ne_true (hfree.symm.trans htrap)

/-! ### Calls with no interceptor installed -/

theorem State.trapped_of_interceptor_off {s : State} (h : s.cfg.trapInterceptor = false)
    (a12 : Addr) : s.trapped a12 = false := by
  simp [State.trapped, h]

theorem callEffect_of_depth {s : State} {k : Fin 3} (h : s.depth.val = k.val) :
    callEffect s = .push k (s.nxt 2) := by
  have hroom : s.depth.val < 3 := by omega
  have hk : (⟨s.depth.val, hroom⟩ : Fin 3) = k := Fin.ext h
  rw [callEffect, dif_pos hroom, hk]

/-- `s` after a call to `a12` that fills entry `k` (44_control_flow.md R225). -/
def State.called (s : State) (k : Fin 3) (a12 : Addr) : State :=
  ((Effect.push k (s.nxt 2)).apply s).jump a12

@[simp] theorem State.called_stack (s : State) (k : Fin 3) (a12 : Addr) :
    (s.called k a12).stack = s.stack.set k.val (s.pc + 2) := rfl

@[simp] theorem State.called_pc (s : State) (k : Fin 3) (a12 : Addr) :
    (s.called k a12).pc = a12 := rfl

theorem exec_jms_of_depth {s : State} {k : Fin 3} (hoff : s.cfg.trapInterceptor = false)
    (hk : s.depth.val = k.val) (a12 : Addr) : exec (.jms a12) s = .next (s.called k a12) := by
  refine exec_eq_next.2 ⟨State.trapped_of_interceptor_off hoff a12, ?_⟩
  have hpc : nextPc (.jms a12) s = a12 := if_pos (by omega)
  have heff : effectOf (.jms a12) s = .push k (s.nxt 2) := callEffect_of_depth hk
  rw [hpc, heff, State.called]

/-- A call on a full stack overflows (60_exceptions.md R253). -/
theorem exec_jms_of_full {s : State} (hoff : s.cfg.trapInterceptor = false)
    (hfull : s.depth.val = 3) (a12 : Addr) :
    exec (.jms a12) s = .next (s.raiseFatal .stackOverflow) := by
  refine exec_eq_next.2 ⟨State.trapped_of_interceptor_off hoff a12, ?_⟩
  have heff : effectOf (.jms a12) s = .halt .stackOverflow := callEffect_eq_halt.2 ⟨hfull, rfl⟩
  rw [nextPc_jms_of_full hfull, heff]
  rfl

/-! ### The trap parameters -/

/-- The one fault is that of an intercepted JMS (60_exceptions.md R263). -/
theorem exec_eq_fault {i : Instr} {s : State} {f : Fault} :
    exec i s = .fault f ↔ intercepted i s = true ∧ Fault.trap s.pc = f := by
  rw [exec_eq]
  cases intercepted i s <;> simp

/-- `s` with other trap parameters. -/
def State.withTrap (s : State) (target : Option Addr) (installed : Bool) : State :=
  { s with cfg := { s.cfg with trapTarget := target, trapInterceptor := installed } }

theorem intercepted_of_not_jms {i : Instr} (h : ∀ a12, i ≠ .jms a12) (s : State) :
    intercepted i s = false := by
  cases i with
  | jms a12 => exact absurd rfl (h a12)
  | _ => rfl

section
variable (s : State) (target : Option Addr) (installed : Bool)

theorem effectOf_withTrap (i : Instr) : effectOf i (s.withTrap target installed) = effectOf i s := by
  cases i <;> rfl

theorem nextPc_withTrap (i : Instr) : nextPc i (s.withTrap target installed) = nextPc i s := by
  cases i <;> rfl

theorem Effect.apply_withTrap (e : Effect) :
    e.apply (s.withTrap target installed) = (e.apply s).withTrap target installed := by
  cases e <;> rfl

end

end Sys2Proof.Machine
end

section
/-! The statements of 60_exceptions.md. -/

namespace Sys2Proof.Machine

/-- Settles O11: a halt writes run and reason, and no A. -/
theorem haltResultIsTheAccumulatorFound : Obligations.HaltResultIsTheAccumulatorFound := by
  intro s t hstep hhalted
  obtain ⟨r, -, rfl⟩ := step_next_of_run_halted hstep hhalted
  rfl

/-- Settles O12: the two fatal errors are the two situations that a safe state excludes. -/
theorem safeStatesStepWithoutFatalError : Obligations.SafeStatesStepWithoutFatalError := by
  intro s hrun hsafe
  have hstep := step_eq_next.2 ⟨hrun, exec_eq_next.2 ⟨hsafe.intercepted_eq_false, rfl⟩⟩
  refine ⟨_, hstep, fun hfatal => ?_⟩
  obtain ⟨hcall, hreturn⟩ := hsafe
  rcases step_fatal_cases hstep hfatal with ⟨a12, hi, hfull, -⟩ | ⟨d, hi, hempty, -⟩
  · obtain ⟨hroom, -⟩ := hcall a12 hi
    omega
  · have hentry := hreturn d hi
    omega

/-- Settles O45: both errors leave the state of `State.raiseFatal`. -/
theorem fatalErrorsChangeOnlyRunAndReason : Obligations.FatalErrorsChangeOnlyRunAndReason := by
  intro s t hstep hfatal
  rcases step_fatal_cases hstep hfatal with ⟨-, -, hfull, rfl⟩ | ⟨-, -, hempty, rfl⟩
  · exact ⟨rfl, .inl ⟨rfl, hfull⟩⟩
  · exact ⟨rfl, .inr ⟨rfl, hempty⟩⟩

/-- Settles O46: the fault is the interception, and neither an effect nor a next pc reads the trap
parameters. -/
theorem interceptorTakesOnlyItsTarget : Obligations.InterceptorTakesOnlyItsTarget := by
  refine ⟨fun i s f => ?_, fun i s => ?_, fun i s t target installed hi hexec => ?_⟩
  · simp only [exec_eq_fault, intercepted_eq_true, State.trapped_eq_true]
    constructor
    · rintro ⟨⟨a12, rfl, hon, htarget⟩, rfl⟩
      exact ⟨rfl, hon, a12, htarget, rfl⟩
    · rintro ⟨rfl, hon, a12, htarget, rfl⟩
      exact ⟨⟨a12, rfl, hon, htarget⟩, rfl⟩
  · cases hint : intercepted i s with
    | true => exact .inl ⟨_, exec_eq_fault.2 ⟨hint, rfl⟩⟩
    | false => exact .inr ⟨_, exec_eq_next.2 ⟨hint, rfl⟩⟩
  · have hint (u : State) := intercepted_of_not_jms hi u
    have hsame := exec_of_same_reads (s' := s.withTrap target installed) hexec
      ((hint _).trans (hint s).symm) (effectOf_withTrap ..) (nextPc_withTrap ..)
    obtain ⟨-, rfl⟩ := exec_eq_next.1 hexec
    rw [Effect.apply_withTrap] at hsame
    simpa [State.withTrap, State.jump] using hsame

/-- Settles O48: three calls fill the entries 0, 1 and 2, and the fourth meets the full stack. -/
theorem fourthNestedCallOverflows : Obligations.FourthNestedCallOverflows := by
  refine ⟨fun s a hoff hfull => exec_jms_of_full hoff hfull a, fun s a b c d hoff hempty hrun => ?_⟩
  have hfirst : s.depth.val = (0 : Fin 3).val := congrArg Fin.val hempty
  have hsecond := exec_jms_of_depth (s := s.called 0 a) (k := 1) hoff rfl b
  have hthird := exec_jms_of_depth (s := (s.called 0 a).called 1 b) (k := 2) hoff rfl c
  have hfourth := exec_jms_of_full (s := ((s.called 0 a).called 1 b).called 2 c) hoff rfl d
  refine ⟨_, _, _, exec_jms_of_depth hoff hfirst a, hsecond, hthird, hrun, rfl, ?_, ?_, ?_, rfl,
    hfourth⟩ <;> simp

end Sys2Proof.Machine
end

section
/-! SUPPORT. The start that fails, the two-digit difference, and where a page-relative target lies
from the instruction's own page. -/

namespace Sys2Proof.Machine

/-- The one error of `start`, and the one case that has it (70_reset_and_hazards.md R273). -/
theorem start_eq_error {cfg : Config} {image : List Byte} {e : LoadError} :
    State.start cfg image = .error e ↔ progSize < image.length ∧ .tooLong image.length = e := by
  unfold State.start loadImage
  by_cases h : image.length ≤ progSize
  · simp [h]
  · simp [h, Nat.lt_of_not_le h]

/-- `subLaw_value` for two digits, the carry of the low one inverted for the high one
(70_reset_and_hazards.md R277): the 16 that the low digit borrows is the 1 that the high digit pays. -/
theorem subLaw_chain_value (a b a' b' : Nibble) (c : Bool) :
    16 * (subLaw a' b' !(subLaw a b c).2).1.toNat + (subLaw a b c).1.toNat +
        (16 * b'.toNat + b.toNat) + c.toNat + 256 * (subLaw a' b' !(subLaw a b c).2).2.toNat =
      16 * a'.toNat + a.toNat + 256 := by
  have hlow := subLaw_value a b c
  have hinverted := not_toNat_add_toNat (subLaw a b c).2
  have hhigh := subLaw_value a' b' !(subLaw a b c).2
  omega

/-- The same of the three instructions: SUB, CMC and, with the high digit in A, SUB. -/
theorem exec_sub_cmc_sub_value {s0 s1 s2 s3 : State} {lo hi : Reg} {a : Nibble}
    (hlow : exec (.sub lo) s0 = .next s1) (hcmc : exec .cmc s1 = .next s2)
    (hhigh : exec (.sub hi) { s2 with acc := a } = .next s3) :
    16 * s3.acc.toNat + s1.acc.toNat + (16 * (s0.getReg hi).toNat + (s0.getReg lo).toNat) +
        s0.cy.toNat + 256 * s3.cy.toNat = 16 * a.toNat + s0.acc.toNat + 256 := by
  obtain ⟨-, rfl⟩ := exec_eq_next.1 hlow
  obtain ⟨-, rfl⟩ := exec_eq_next.1 hcmc
  obtain ⟨-, rfl⟩ := exec_eq_next.1 hhigh
  exact subLaw_chain_value s0.acc (s0.getReg lo) a (s0.getReg hi) s0.cy

/-- The page of a page-relative target: the instruction's own, or the following one modulo 16 where its
`n` words reach the end of the page (70_reset_and_hazards.md R275, R276). -/
theorem pageTarget_nxt_page (s : State) {n : Nat} (hn : n ≤ 256) (a8 : Byte) :
    (pageTarget (s.nxt n) a8).toNat / 256 =
      (s.pc.toNat / 256 + if 256 - n ≤ s.pc.toNat % 256 then 1 else 0) % 16 := by
  have := a8.isLt
  rw [pageTarget_toNat, State.nxt_toNat]
  split_ifs <;> omega

/-- Where a two-word branch lands when it jumps (70_reset_and_hazards.md R275). -/
theorem taken_branch_lands {i : Instr} {s : State} {a8 : Byte}
    (h : nextPc i s = pageTarget (s.nxt 2) a8) :
    (nextPc i s).toNat / 256 =
        (s.pc.toNat / 256 + if 254 ≤ s.pc.toNat % 256 then 1 else 0) % 16 ∧
      (nextPc i s).toNat % 256 = a8.toNat := by
  rw [h]
  refine ⟨pageTarget_nxt_page s (by decide) a8, ?_⟩
  rw [pageTarget_toNat, Nat.mul_add_mod_self_right, Nat.mod_eq_of_lt a8.isLt]

end Sys2Proof.Machine
end

section
/-! The statements of 70_reset_and_hazards.md. -/

namespace Sys2Proof.Machine

/-- Settles O34: the two digits of the result are below 256, so the final carry tells whether 256 was
borrowed for them. -/
theorem complementedCarryChainsSubtraction : Obligations.ComplementedCarryChainsSubtraction := by
  intro s0 s1 s2 s3 lo hi a hcy hlow hcmc hhigh
  have hvalue := exec_sub_cmc_sub_value hlow hcmc hhigh
  rw [hcy, Bool.toNat_false] at hvalue
  have := s1.acc.isLt
  have := s3.acc.isLt
  have := bool_toNat_le s3.cy
  rw [← Bool.toNat_eq_zero]
  omega

/-- Settles O50: JCN and ISZ, when they jump, and JIN go to the page of `nxt`, two words on for the
former and one for JIN. -/
theorem branchesAtPageEndLandInNextPage : Obligations.BranchesAtPageEndLandInNextPage := by
  intro s t i hexec
  obtain ⟨-, rfl⟩ := exec_eq_next.1 hexec
  rw [State.jump_pc]
  refine ⟨?_, ?_, ?_⟩
  · rintro p rfl
    have hlast : s.pc.toNat % 256 = 255 ↔ 256 - 1 ≤ s.pc.toNat % 256 := by omega
    simp only [hlast]
    exact pageTarget_nxt_page s (by decide) (s.getPair p)
  · rintro r a8 rfl hreg
    exact taken_branch_lands (if_pos (mt incrementLaw_eq_zero.1 hreg))
  · rintro c a8 rfl hjump
    exact taken_branch_lands ((ite_eq_or_eq ..).resolve_right hjump)

/-- Settles O16: the program memory is 4096 bytes. -/
theorem longImageIsALoadError : Obligations.LongImageIsALoadError := by
  intro cfg image
  simp only [start_eq_error]
  exact ⟨fun ⟨_, hlong, _⟩ => hlong, fun hlong => ⟨_, hlong, rfl⟩⟩

end Sys2Proof.Machine
end
